-- ==== Sys2Proof/Word.lean ====
section
/-! DEFINITION. The words of the machine: the byte of a memory cell and of a V register, the 16-bit word of an
instruction, of I, of PC and of a stack slot, the 12-bit address field, and the number of a V register.
Spec: 00_scope.md rules R6, R8 and R9, 10_state.md rule R21. -/

namespace Sys2Proof

/-- A memory cell, a V register, a timer (R6: 8 bits). -/
abbrev Byte := BitVec 8

/-- An instruction word, I, PC, a stack slot (R6: 16 bits). -/
abbrev Word := BitVec 16

/-- The `nnn` field of an instruction: an unsigned 12-bit address (R61, R64). -/
abbrev Addr12 := BitVec 12

/-- The number of a general register, 0x0 to 0xF (R21). -/
abbrev Reg := Fin 16

/-- The number of VF, the flag register (R22). -/
abbrev regF : Reg := 15

end Sys2Proof
end

