-- ==== Sys2Proof/Config.lean ====
section
/-! DEFINITION. What is fixed for the machine and what the spec leaves to the implementation: the sizes of
00_scope.md rule R6, the form of the font parameter of rule R7, and the free random draw of rule R7.
The font the machine takes is `Sys2Proof.Machine.font` (Machine/Font.lean). -/

namespace Sys2Proof.Config

/-- MEM_SIZE: addresses 0x000 to 0xFFF (R6, R40). -/
def memSize : Nat := 0x1000

/-- PROGRAM_BASE: where a program image is loaded and where execution starts (R6, R231, R232). -/
def programBase : Nat := 0x200

/-- The longest program image a Load accepts (R232). -/
def maxImage : Nat := 0xE00

/-- The number of bytes of the font: sixteen glyphs of five bytes (R6, R32). -/
def fontSize : Nat := 80

/-- The two font parameters of R7: FONT_BASE and FONT_GLYPHS. -/
structure Font where
  /-- FONT_BASE, the address of glyph 0. -/
  base : Nat
  /-- FONT_GLYPHS, the glyphs' bytes in the order of their digits. -/
  glyphs : List Byte
  deriving DecidableEq, Repr

/-- R7: "must satisfy FONT_BASE + 80 <= 0x200", and a table of 80 bytes. -/
def Font.legal (f : Font) : Bool :=
  f.base + fontSize ≤ programBase && f.glyphs.length == fontSize

/-- The free draws of R7, R131 and R212: the byte that the `k`-th draw not supplied by a caller gives.
It has no body, so nothing can be proved of its values: a claim about a draw holds for every byte
(log entry 3). -/
opaque freeRand : Nat → Byte

end Sys2Proof.Config
end

