-- ==== Sys2Proof/Syntax.lean ====
section
/-! DEFINITION. The instructions: one constructor for each of the 34 rows of the opcode table
(30_encoding.md rule R63), with the operands of rule R64 as the decoder extracts them, and the names of the
words that select no instruction (rule R66). -/

namespace Sys2Proof

/-- The instruction set. `x` and `y` are register numbers, `nn` an 8-bit immediate, `nnn` a 12-bit address and
`n` a count of sprite rows (R61, R64). The constructors stand in the order of the opcode table. -/
inductive Instr where
  /-- `00E0` CLS (R160). -/
  | cls
  /-- `00EE` RET (R100). -/
  | ret
  /-- `1nnn` JP nnn (R101). -/
  | jp (nnn : Addr12)
  /-- `2nnn` CALL nnn (R102). -/
  | call (nnn : Addr12)
  /-- `3xnn` SE Vx, nn (R103). -/
  | seImm (x : Reg) (nn : Byte)
  /-- `4xnn` SNE Vx, nn (R104). -/
  | sneImm (x : Reg) (nn : Byte)
  /-- `5xy0` SE Vx, Vy (R105). -/
  | seReg (x y : Reg)
  /-- `6xnn` LD Vx, nn (R120). -/
  | ldImm (x : Reg) (nn : Byte)
  /-- `7xnn` ADD Vx, nn (R121). -/
  | addImm (x : Reg) (nn : Byte)
  /-- `8xy0` LD Vx, Vy (R122). -/
  | ldReg (x y : Reg)
  /-- `8xy1` OR Vx, Vy (R123). -/
  | orReg (x y : Reg)
  /-- `8xy2` AND Vx, Vy (R124). -/
  | andReg (x y : Reg)
  /-- `8xy3` XOR Vx, Vy (R125). -/
  | xorReg (x y : Reg)
  /-- `8xy4` ADD Vx, Vy (R126). -/
  | addReg (x y : Reg)
  /-- `8xy5` SUB Vx, Vy (R127). -/
  | subReg (x y : Reg)
  /-- `8xy6` SHR Vx (R128). The `y` field stands in the word and is not read (R67). -/
  | shr (x y : Reg)
  /-- `8xy7` SUBN Vx, Vy (R129). -/
  | subnReg (x y : Reg)
  /-- `8xyE` SHL Vx (R130). The `y` field stands in the word and is not read (R67). -/
  | shl (x y : Reg)
  /-- `9xy0` SNE Vx, Vy (R106). -/
  | sneReg (x y : Reg)
  /-- `Annn` LD I, nnn (R140). -/
  | ldI (nnn : Addr12)
  /-- `Bnnn` JP V0, nnn (R107). -/
  | jpV0 (nnn : Addr12)
  /-- `Cxnn` RND Vx, nn (R131). -/
  | rnd (x : Reg) (nn : Byte)
  /-- `Dxyn` DRW Vx, Vy, n (R161). -/
  | drw (x y : Reg) (n : Fin 16)
  /-- `Ex9E` SKP Vx (R180). -/
  | skp (x : Reg)
  /-- `ExA1` SKNP Vx (R181). -/
  | sknp (x : Reg)
  /-- `Fx07` LD Vx, DT (R182). -/
  | ldVxDt (x : Reg)
  /-- `Fx0A` LD Vx, K (R183). -/
  | ldVxK (x : Reg)
  /-- `Fx15` LD DT, Vx (R184). -/
  | ldDtVx (x : Reg)
  /-- `Fx18` LD ST, Vx (R185). -/
  | ldStVx (x : Reg)
  /-- `Fx1E` ADD I, Vx (R141). -/
  | addI (x : Reg)
  /-- `Fx29` LD F, Vx (R142). -/
  | ldF (x : Reg)
  /-- `Fx33` LD B, Vx (R143). -/
  | ldB (x : Reg)
  /-- `Fx55` LD [I], Vx (R144). -/
  | storeRegs (x : Reg)
  /-- `Fx65` LD Vx, [I] (R145). -/
  | loadRegs (x : Reg)
  deriving DecidableEq, Repr

/-- Why a decoder given bytes reads no instruction: the row of R66 the word falls in, or fewer than two bytes.
A word with such a name runs as the no-op of R84. -/
inductive Unknown where
  /-- `0nnn` other than 00E0 and 00EE, the machine-code-call words among them. -/
  | zeroFamily
  /-- `5xyn` with n not 0. -/
  | skipEqual
  /-- `8xyn` with n in 8, 9, A, B, C, D, F. -/
  | registerOp
  /-- `9xyn` with n not 0. -/
  | skipNotEqual
  /-- `Exnn` with nn neither 9E nor A1. -/
  | keyOp
  /-- `Fxnn` with nn none of 07, 0A, 15, 18, 1E, 29, 33, 55, 65. -/
  | miscOp
  /-- Fewer than two bytes: no word at all (R60). A fetch never gives this. -/
  | truncated
  deriving DecidableEq, Repr

end Sys2Proof
end

