-- ==== Sys2Proof/WellFormed.lean ====
section
/-! DEFINITION. What is well formed before the machine runs it. The operand types of `Instr` hold exactly the
values the fields of a word admit, so every `Instr` is well formed as it stands. What can be ill formed here is a
WORD, which selects an instruction only when all of that instruction's fixed nibbles match (30_encoding.md rule
R65), and a PROGRAM IMAGE, which must fit above 0x200 (70_reset_and_hazards.md rule R232). `selects` is written
from R65 alone, without the decoder. -/

namespace Sys2Proof

/-- The nibble of `w` whose lowest bit is bit `4 * k` (R8). -/
def nibbleAt (w : Word) (k : Nat) : Nat := w.toNat / 16 ^ k % 16

/-- The sub-operations of family 8 that R65 lists. -/
def registerOps : List Nat := [0x0, 0x1, 0x2, 0x3, 0x4, 0x5, 0x6, 0x7, 0xE]

/-- The low bytes of family E that R65 lists. -/
def keyOps : List Nat := [0x9E, 0xA1]

/-- The low bytes of family F that R65 lists. -/
def miscOps : List Nat := [0x07, 0x0A, 0x15, 0x18, 0x1E, 0x29, 0x33, 0x55, 0x65]

/-- R65, family by family: does the word select an instruction of the table? -/
def selects (w : Word) : Bool :=
  match nibbleAt w 3 with
  | 0x0 => w.toNat == 0x00E0 || w.toNat == 0x00EE
  | 0x5 => nibbleAt w 0 == 0
  | 0x9 => nibbleAt w 0 == 0
  | 0x8 => registerOps.contains (nibbleAt w 0)
  | 0xE => keyOps.contains (w.toNat % 256)
  | 0xF => miscOps.contains (w.toNat % 256)
  | _ => true

/-- R232: an image longer than 0xE00 bytes is refused. -/
def imageFits (image : List Byte) : Bool := image.length ≤ Config.maxImage

end Sys2Proof
end

