-- ==== Sys2Proof/Decode.lean ====
section
/-! DEFINITION. The decoder (30_encoding.md rules R61, R62 and R65), total on every word and every byte list,
which names the row of rule R66 where a word selects no instruction, and the encoder, written from the patterns
of rule R63. -/

namespace Sys2Proof

/-- `op`, w[15:12] (R61). -/
def fieldOp (w : Word) : BitVec 4 := w.extractLsb' 12 4
/-- `x`, w[11:8] (R61). -/
def fieldX (w : Word) : BitVec 4 := w.extractLsb' 8 4
/-- `y`, w[7:4] (R61). -/
def fieldY (w : Word) : BitVec 4 := w.extractLsb' 4 4
/-- `n`, w[3:0] (R61). -/
def fieldN (w : Word) : BitVec 4 := w.extractLsb' 0 4
/-- `nn`, w[7:0] (R61). -/
def fieldNN (w : Word) : Byte := w.extractLsb' 0 8
/-- `nnn`, w[11:0] (R61). -/
def fieldNNN (w : Word) : Addr12 := w.extractLsb' 0 12

/-- A 4-bit field as a number below 16: a register's number or a row count (R64). -/
def nibbleNum (b : BitVec 4) : Fin 16 := ⟨b.toNat, b.isLt⟩

/-- The nested switch of family 8 on `n` (R65). -/
def decodeRegisterOp (x y : Reg) (n : BitVec 4) : Except Unknown Instr :=
  match n.toNat with
  | 0x0 => .ok (.ldReg x y)
  | 0x1 => .ok (.orReg x y)
  | 0x2 => .ok (.andReg x y)
  | 0x3 => .ok (.xorReg x y)
  | 0x4 => .ok (.addReg x y)
  | 0x5 => .ok (.subReg x y)
  | 0x6 => .ok (.shr x y)
  | 0x7 => .ok (.subnReg x y)
  | 0xE => .ok (.shl x y)
  | _ => .error .registerOp

/-- The nested switch of family E on `nn` (R65). -/
def decodeKeyOp (x : Reg) (nn : Byte) : Except Unknown Instr :=
  match nn.toNat with
  | 0x9E => .ok (.skp x)
  | 0xA1 => .ok (.sknp x)
  | _ => .error .keyOp

/-- The nested switch of family F on `nn` (R65). -/
def decodeMiscOp (x : Reg) (nn : Byte) : Except Unknown Instr :=
  match nn.toNat with
  | 0x07 => .ok (.ldVxDt x)
  | 0x0A => .ok (.ldVxK x)
  | 0x15 => .ok (.ldDtVx x)
  | 0x18 => .ok (.ldStVx x)
  | 0x1E => .ok (.addI x)
  | 0x29 => .ok (.ldF x)
  | 0x33 => .ok (.ldB x)
  | 0x55 => .ok (.storeRegs x)
  | 0x65 => .ok (.loadRegs x)
  | _ => .error .miscOp

/-- R65: switch on `op`, then on the nested discriminant. Total (R62). -/
def decode (w : Word) : Except Unknown Instr :=
  let x := nibbleNum (fieldX w)
  let y := nibbleNum (fieldY w)
  let nn := fieldNN w
  let nnn := fieldNNN w
  match (fieldOp w).toNat with
  | 0x0 => if w = 0x00E0#16 then .ok .cls else if w = 0x00EE#16 then .ok .ret else .error .zeroFamily
  | 0x1 => .ok (.jp nnn)
  | 0x2 => .ok (.call nnn)
  | 0x3 => .ok (.seImm x nn)
  | 0x4 => .ok (.sneImm x nn)
  | 0x5 => if fieldN w = 0#4 then .ok (.seReg x y) else .error .skipEqual
  | 0x6 => .ok (.ldImm x nn)
  | 0x7 => .ok (.addImm x nn)
  | 0x8 => decodeRegisterOp x y (fieldN w)
  | 0x9 => if fieldN w = 0#4 then .ok (.sneReg x y) else .error .skipNotEqual
  | 0xA => .ok (.ldI nnn)
  | 0xB => .ok (.jpV0 nnn)
  | 0xC => .ok (.rnd x nn)
  | 0xD => .ok (.drw x y (nibbleNum (fieldN w)))
  | 0xE => decodeKeyOp x nn
  | _ => decodeMiscOp x nn

/-- The word of two bytes, the high byte first (R44, R45). -/
def wordOf (hi lo : Byte) : Word := hi ++ lo

/-- The byte at the lower address of a word (R44: bits 15 to 8). -/
def hiByte (w : Word) : Byte := w.extractLsb' 8 8

/-- The byte at the higher address of a word (R44: bits 7 to 0). -/
def loByte (w : Word) : Byte := w.extractLsb' 0 8

/-- Decoding from bytes as they lie in memory: the instruction and the bytes after it. Every instruction is two
bytes (R60). -/
def decodeBytes : List Byte → Except Unknown (Instr × List Byte)
  | hi :: lo :: rest =>
    match decode (wordOf hi lo) with
    | .ok i => .ok (i, rest)
    | .error u => .error u
  | _ => .error .truncated

/-- The instruction read from a table row's bits: one word, its two bytes laid out high byte first. Bits above
`nbits` are 0; no instruction is longer than 16 bits (R60). -/
def decodeTableWord (nbits w : Nat) : Option Instr :=
  let word := BitVec.ofNat 16 (w % 2 ^ nbits)
  match decodeBytes [hiByte word, loByte word] with
  | .ok (i, _) => some i
  | .error _ => none

/-- A number below 16 as a 4-bit field. -/
def nibbleBits (k : Fin 16) : BitVec 4 := BitVec.ofNat 4 k.val

/-- Pattern `oxnn`. -/
def packXNN (op : BitVec 4) (x : Reg) (nn : Byte) : Word := op ++ nibbleBits x ++ nn
/-- Pattern `onnn`. -/
def packNNN (op : BitVec 4) (nnn : Addr12) : Word := op ++ nnn
/-- Pattern `oxyn`. -/
def packXYN (op : BitVec 4) (x y : Reg) (n : BitVec 4) : Word := op ++ nibbleBits x ++ nibbleBits y ++ n

/-- The word of an instruction, pattern by pattern as R63 lists them. -/
def encode : Instr → Word
  | .cls => 0x00E0#16
  | .ret => 0x00EE#16
  | .jp nnn => packNNN 0x1#4 nnn
  | .call nnn => packNNN 0x2#4 nnn
  | .seImm x nn => packXNN 0x3#4 x nn
  | .sneImm x nn => packXNN 0x4#4 x nn
  | .seReg x y => packXYN 0x5#4 x y 0x0#4
  | .ldImm x nn => packXNN 0x6#4 x nn
  | .addImm x nn => packXNN 0x7#4 x nn
  | .ldReg x y => packXYN 0x8#4 x y 0x0#4
  | .orReg x y => packXYN 0x8#4 x y 0x1#4
  | .andReg x y => packXYN 0x8#4 x y 0x2#4
  | .xorReg x y => packXYN 0x8#4 x y 0x3#4
  | .addReg x y => packXYN 0x8#4 x y 0x4#4
  | .subReg x y => packXYN 0x8#4 x y 0x5#4
  | .shr x y => packXYN 0x8#4 x y 0x6#4
  | .subnReg x y => packXYN 0x8#4 x y 0x7#4
  | .shl x y => packXYN 0x8#4 x y 0xE#4
  | .sneReg x y => packXYN 0x9#4 x y 0x0#4
  | .ldI nnn => packNNN 0xA#4 nnn
  | .jpV0 nnn => packNNN 0xB#4 nnn
  | .rnd x nn => packXNN 0xC#4 x nn
  | .drw x y n => packXYN 0xD#4 x y (nibbleBits n)
  | .skp x => packXNN 0xE#4 x 0x9E#8
  | .sknp x => packXNN 0xE#4 x 0xA1#8
  | .ldVxDt x => packXNN 0xF#4 x 0x07#8
  | .ldVxK x => packXNN 0xF#4 x 0x0A#8
  | .ldDtVx x => packXNN 0xF#4 x 0x15#8
  | .ldStVx x => packXNN 0xF#4 x 0x18#8
  | .addI x => packXNN 0xF#4 x 0x1E#8
  | .ldF x => packXNN 0xF#4 x 0x29#8
  | .ldB x => packXNN 0xF#4 x 0x33#8
  | .storeRegs x => packXNN 0xF#4 x 0x55#8
  | .loadRegs x => packXNN 0xF#4 x 0x65#8

end Sys2Proof
end

