-- ==== Sys2Proof/Machine/State.lean ====
section
/-! DEFINITION. The state of the core (10_state.md rule R20), as plain data, its value after reset (rule R31), and
the reasons a call can end without a next state. The eleven elements of R20 are the first twelve fields of `State`
(DT and ST are two); the last field, `port`, is the model's own: what passes through the Step port of
60_exceptions.md rule R209 (its argument RAND and its result). -/

namespace Sys2Proof.Machine

/-- The four kinds of fatal error (R201). -/
inductive FatalKind where
  /-- CALL with SP = 16. -/
  | stackOverflow
  /-- RET with SP = 0. -/
  | stackUnderflow
  /-- A fetch that reaches beyond 0xFFF. -/
  | fetchOutOfRange
  /-- A data address I + k beyond 0xFFF. -/
  | dataOutOfRange
  deriving DecidableEq, Repr

/-- The fault record of R201. Its `code` is a function of the kind (`FatalKind.code`), so it is not stored. -/
structure FaultRecord where
  kind : FatalKind
  /-- `instr_addr`: the address of the instruction, or of the fetch that failed. -/
  instrAddr : Word
  /-- `word`: the fetched word, absent for FETCH_OUT_OF_RANGE. -/
  word : Option Word
  /-- `bad_addr`: the first out-of-range address, an unbounded integer (R42), absent for the stack kinds. -/
  badAddr : Option Nat
  deriving DecidableEq, Repr

/-- Status (R29). -/
inductive Status where
  | running
  | halted (f : FaultRecord)
  deriving DecidableEq, Repr

/-- The result of one Step call (R82). -/
inductive StepResult where
  | advanced
  | notAdvanced
  | fatal (f : FaultRecord)
  deriving DecidableEq, Repr

/-- The Step port, the model's own field (log entries 2 and 3). -/
structure StepPort where
  /-- The byte RAND the caller gives with the coming Step call; `none` where the model's own `step`, which takes
  no argument, is the caller: the draw is then free. -/
  rand : Option Byte
  /-- How many draws the free source has given. -/
  draws : Nat
  /-- The result of the last Step call; `none` before the first Step after Reset. -/
  report : Option StepResult
  deriving DecidableEq, Repr

/-- Memory: the bytes that differ from what an unlisted address reads as, in rising order of address
(`Memory.wf` in Machine/Ops.lean). -/
abbrev Memory := List Host.Cell

/-- FB: 32 rows of 64 cells, `fb[r][c]` being FB[r][c] (R27). -/
abbrev Framebuffer := Vector (Vector Bool 64) 32

/-- Why a call stops the machine without a next state. There is no such reason: a fatal error is a value of
Status and its step has a next state (R81, R202), and every other step completes (R82). -/
inductive Fault where
  deriving DecidableEq, Repr

/-- Why a call is refused. -/
inductive Refusal where
  /-- Raised by an arm of `exec` whose instruction has no meaning yet. No arm does. Safe. -/
  | notModelled (mnemonic : String)
  /-- Raised by the Load port for an image longer than 0xE00 bytes (R232). Safe: the spec refuses it. -/
  | imageTooLong
  /-- Raised by the Load port after a Step (R232: "Load at any other time ... the model refuses it"). Safe. -/
  | loadAfterStep
  deriving DecidableEq, Repr

/-- The state tuple of R20, and the Step port. -/
structure State where
  /-- Mem: 4096 bytes (R40). -/
  mem : Memory
  /-- V0 to VF (R21). -/
  v : Vector Byte 16
  /-- I, the index register (R23). -/
  i : Word
  /-- PC (R24). -/
  pc : Word
  /-- The sixteen slots of the call stack (R25). -/
  stack : Vector Word 16
  /-- SP, the number of live slots, 0 to 16 (R25). -/
  sp : Fin 17
  /-- DT, the delay timer (R26). -/
  dt : Byte
  /-- ST, the sound timer (R26). -/
  st : Byte
  /-- FB (R27). -/
  fb : Framebuffer
  /-- Key[0] to Key[15]: true while the key is down (R28). -/
  key : Vector Bool 16
  /-- Status (R29). -/
  status : Status
  /-- The Step port: the model's own field. -/
  port : StepPort
  deriving DecidableEq, Repr

/-- The framebuffer with every cell unlit. -/
def Framebuffer.clear : Framebuffer := Vector.replicate 32 (Vector.replicate 64 false)

/-- R31, R230: the state after Reset. Memory lists nothing: an unlisted address reads as the font byte or the zero
that R31 gives it (`unlisted` in Machine/Font.lean). -/
def State.reset : State where
  mem := []
  v := Vector.replicate 16 0
  i := 0
  pc := BitVec.ofNat 16 Config.programBase
  stack := Vector.replicate 16 0
  sp := 0
  dt := 0
  st := 0
  fb := Framebuffer.clear
  key := Vector.replicate 16 false
  status := .running
  port := ⟨none, 0, none⟩

end Sys2Proof.Machine
end

