-- ==== Sys2Proof/Machine/Font.lean ====
section
/-! DEFINITION. The font parameters the machine takes (00_scope.md rule R7, 10_state.md rule R32, decisions D2 and
D3) and what they decide: what a byte of memory that nothing has written reads as, and where a glyph lies. The
operations take the font as an argument; `font` is the one the machine runs with (log entry 1). -/

namespace Sys2Proof.Machine

/-- The default FONT_GLYPHS: the table of R32, digit by digit. -/
def defaultGlyphs : List Byte :=
  [0xF0, 0x90, 0x90, 0x90, 0xF0] ++ [0x20, 0x60, 0x20, 0x20, 0x70] ++
  [0xF0, 0x10, 0xF0, 0x80, 0xF0] ++ [0xF0, 0x10, 0xF0, 0x10, 0xF0] ++
  [0x90, 0x90, 0xF0, 0x10, 0x10] ++ [0xF0, 0x80, 0xF0, 0x10, 0xF0] ++
  [0xF0, 0x80, 0xF0, 0x90, 0xF0] ++ [0xF0, 0x10, 0x20, 0x40, 0x40] ++
  [0xF0, 0x90, 0xF0, 0x90, 0xF0] ++ [0xF0, 0x90, 0xF0, 0x10, 0xF0] ++
  [0xF0, 0x90, 0xF0, 0x90, 0x90] ++ [0xE0, 0x90, 0xE0, 0x90, 0xE0] ++
  [0xF0, 0x80, 0x80, 0x80, 0xF0] ++ [0xE0, 0x90, 0x90, 0x90, 0xE0] ++
  [0xF0, 0x80, 0xF0, 0x80, 0xF0] ++ [0xF0, 0x80, 0xF0, 0x80, 0x80]

/-- The font the machine takes: the decided defaults FONT_BASE = 0x000 and the table of R32. -/
def font : Config.Font := ⟨0x000, defaultGlyphs⟩

/-- R31, the memory rows: the byte at address `a` after Reset, with the font `f`. -/
def resetByte (f : Config.Font) (a : Nat) : Byte :=
  if f.base ≤ a ∧ a < f.base + Config.fontSize then f.glyphs.getD (a - f.base) 0 else 0

/-- What an address that memory does not list reads as: its value after Reset. -/
def unlisted (a : Nat) : Byte := resetByte font a

/-- R142: `FONT_BASE + 5 * vx`, with `vx` in full (D31). -/
def glyphAddress (f : Config.Font) (vx : Byte) : Word := BitVec.ofNat 16 (f.base + 5 * vx.toNat)

end Sys2Proof.Machine
end

