-- ==== Sys2Proof/Machine/Ops.lean ====
section
/-! DEFINITION. The named operations over memory, registers and the framebuffer, the ends of an instruction
(rule R82), and the one way a fatal error is taken (rules R81 and R202), with the one way out of it, Reset (rules
R203 and R230). Spec: 20_memory.md, 40_execution_cycle.md, 60_exceptions.md. -/

namespace Sys2Proof.Machine

/-! ### Memory (R40 to R50) -/

/-- The byte at `a`: the one listed, else what an unlisted address reads as (R50). -/
def Memory.read : Memory → Nat → Byte
  | [], a => unlisted a
  | (b, w) :: m, a => if a = b then w else Memory.read m a

/-- A cell put in front of `m`, unless it says what an unlisted address reads as. -/
def Memory.cons (a : Nat) (v : Byte) (m : Memory) : Memory :=
  if v = unlisted a then m else (a, v) :: m

/-- The byte `v` put at `a`, keeping the canonical form. -/
def Memory.insert (a : Nat) (v : Byte) : Memory → Memory
  | [] => Memory.cons a v []
  | (b, w) :: m =>
    if a < b then Memory.cons a v ((b, w) :: m)
    else if a = b then Memory.cons a v m
    else (b, w) :: Memory.insert a v m

/-- R43: the byte `v` written at `a`. There is no cell beyond 0xFFF; an instruction that would write one has
raised its fatal error before (`State.storeAll`). -/
def Memory.write (m : Memory) (a : Nat) (v : Byte) : Memory :=
  if a < Config.memSize then Memory.insert a v m else m

/-- The bytes written at `a`, `a + 1`, … in ascending order (R47). -/
def Memory.writeAll (m : Memory) (a : Nat) : List Byte → Memory
  | [] => m
  | v :: vs => Memory.writeAll (Memory.write m a v) (a + 1) vs

/-- The `n` bytes at `a`, `a + 1`, … in ascending order (R47). -/
def Memory.readAll (m : Memory) (a : Nat) : Nat → List Byte
  | 0 => []
  | n + 1 => Memory.read m a :: Memory.readAll m (a + 1) n

/-- Addresses rise strictly from `lo`, lie below 0x1000, and no entry says what an unlisted address reads as. -/
def Memory.wfFrom (lo : Nat) : Memory → Bool
  | [] => true
  | (a, v) :: m => lo ≤ a && a < Config.memSize && v ≠ unlisted a && Memory.wfFrom (a + 1) m

/-- The canonical form of a memory. -/
def Memory.wf (m : Memory) : Bool := Memory.wfFrom 0 m

/-- R42, R43: do all of the `n` addresses from `base` exist? With `n = 0` there is nothing to check (D11). -/
def rangeExists (base n : Nat) : Bool := n == 0 || base + n ≤ Config.memSize

/-- R43: the first address out of range among `base`, `base + 1`, … where they reach beyond 0xFFF: 0x1000
whenever `base` itself exists. -/
def firstBadAddr (base : Nat) : Nat := max base Config.memSize

/-! ### Registers, the stack and the screen -/

/-- Read V[x] (R10). -/
def State.getV (s : State) (x : Reg) : Byte := s.v[x]

/-- Write V[x] (R10). -/
def State.setV (s : State) (x : Reg) (b : Byte) : State := { s with v := s.v.set x b }

/-- Write all of V0 to VF. -/
def State.withV (s : State) (v : Vector Byte 16) : State := { s with v := v }

/-- Write I (R10). -/
def State.setI (s : State) (w : Word) : State := { s with i := w }

/-- Write PC (R10). -/
def State.setPc (s : State) (w : Word) : State := { s with pc := w }

/-- Write DT (R10). -/
def State.setDt (s : State) (b : Byte) : State := { s with dt := b }

/-- Write ST (R10). -/
def State.setSt (s : State) (b : Byte) : State := { s with st := b }

/-- Write memory. -/
def State.setMem (s : State) (m : Memory) : State := { s with mem := m }

/-- Write the framebuffer. -/
def State.setFb (s : State) (fb : Framebuffer) : State := { s with fb := fb }

/-- Write the stack slots and SP. -/
def State.setStack (s : State) (slots : Vector Word 16) (sp : Fin 17) : State := { s with stack := slots, sp := sp }

/-- Write the input latch. -/
def State.setKeys (s : State) (key : Vector Bool 16) : State := { s with key := key }

/-- Write the supply of the Step port: the RAND given with a call, and the count of free draws. -/
def State.setSupply (s : State) (rand : Option Byte) (draws : Nat) : State :=
  { s with port := { s.port with rand := rand, draws := draws } }

/-- Give the result of a Step call (R82). -/
def State.giveReport (s : State) (r : StepResult) : State :=
  { s with port := { s.port with report := some r } }

/-- FB[r][c]. -/
def Framebuffer.cell (fb : Framebuffer) (r : Fin 32) (c : Fin 64) : Bool := fb[r][c]

/-- FB[r][c] exclusive-ored with 1. -/
def Framebuffer.flip (fb : Framebuffer) (r : Fin 32) (c : Fin 64) : Framebuffer :=
  fb.set r (fb[r].set c (!fb[r][c]))

/-- R100, R102: Stack[k]. -/
def State.slot (s : State) (k : Fin 16) : Word := s.stack[k]

/-! ### How an instruction ends (R82) -/

/-- `result Advanced`. -/
def State.advanced (s : State) : Host.Outcome State Fault Refusal := .next (s.giveReport .advanced)

/-- `result NotAdvanced`. -/
def State.notAdvanced (s : State) : Host.Outcome State Fault Refusal := .next (s.giveReport .notAdvanced)

/-- R80: PC is advanced by 2 before any opcode-specific logic. -/
def State.advancePc (s : State) : State := s.setPc (s.pc + 2)

/-- R108: a skip adds exactly 2 to PC when its condition holds. -/
def State.skipIf (c : Bool) (s : State) : Host.Outcome State Fault Refusal :=
  State.advanced (if c then s.advancePc else s)

/-- R84: an unknown word does nothing. -/
def State.unknownNoOp (s : State) : Host.Outcome State Fault Refusal := s.advanced

/-! ### Fatal errors (R81, R200 to R204) -/

/-- The codes of R201. -/
def FatalKind.code : FatalKind → Nat
  | .stackOverflow => 1
  | .stackUnderflow => 2
  | .fetchOutOfRange => 3
  | .dataOutOfRange => 4

/-- The `code` of a fault record (R201). -/
def FaultRecord.code (f : FaultRecord) : Nat := f.kind.code

/-- R81, R202: fatal entry. PC is the address of the instruction, Status is Halted with the record, the result of
the step is the record, and nothing else of the pre-step state has changed: a rule raises its error before it
writes anything, so the advance of PC is all there is to undo. -/
def State.enterHalted (s : State) (f : FaultRecord) : State :=
  { s with pc := f.instrAddr, status := .halted f, port := { s.port with report := some (.fatal f) } }

/-- `raise Fatal(kind, info)` in the rule of instruction `i` (R10). The instruction's own address is PC - 2, since
PC has been advanced (R80), and the fetched word is the instruction's. -/
def State.raiseFatal (kind : FatalKind) (i : Instr) (bad : Option Nat) (s : State) :
    Host.Outcome State Fault Refusal :=
  .next (s.enterHalted ⟨kind, s.pc - 2, some (encode i), bad⟩)

/-- R230, R203: the Reset port, the only way out of Halted. Every element of R20 takes its value of R31. The count
of free draws goes on, so that no draw after a Reset is known to equal one before it. -/
def State.resetPort (s : State) : State := State.reset.setSupply none s.port.draws

/-! ### Accesses of several bytes (R43, R47) -/

/-- R43: the bytes are stored from `base` on, after every address has been checked; where one is out of range,
DATA_OUT_OF_RANGE is raised and nothing is stored. -/
def State.storeAll (i : Instr) (base : Nat) (bytes : List Byte) (s : State) : Host.Outcome State Fault Refusal :=
  if rangeExists base bytes.length then (s.setMem (s.mem.writeAll base bytes)).advanced
  else s.raiseFatal .dataOutOfRange i (some (firstBadAddr base))

/-- R42, R43: the `n` bytes from `base` on are read and given to `use`, after every address has been checked;
where one is out of range, DATA_OUT_OF_RANGE is raised and `use` does not happen. -/
def State.loadAll (i : Instr) (base n : Nat) (use : List Byte → State → State) (s : State) :
    Host.Outcome State Fault Refusal :=
  if rangeExists base n then (use (s.mem.readAll base n) s).advanced
  else s.raiseFatal .dataOutOfRange i (some (firstBadAddr base))

/-! ### Fetch (R44, R80, R83) -/

/-- R44: the first out-of-range address of a fetch at `pc`, if there is one. -/
def fetchBadAddr (pc : Word) : Option Nat :=
  if pc.toNat + 1 > 0xFFF then some (if pc.toNat ≤ 0xFFF then pc.toNat + 1 else pc.toNat) else none

/-- R44: the word at PC, high byte first. -/
def State.fetchWord (s : State) : Word := wordOf (s.mem.read s.pc.toNat) (s.mem.read (s.pc.toNat + 1))

/-- `raise Fatal(FETCH_OUT_OF_RANGE)`: PC has not been advanced, and no word was fetched (R201). -/
def State.raiseFetchFatal (bad : Nat) (s : State) : Host.Outcome State Fault Refusal :=
  .next (s.enterHalted ⟨.fetchOutOfRange, s.pc, none, some bad⟩)

/-- R83: a step while Halted changes no state and gives its record again. -/
def State.stepHalted (f : FaultRecord) (s : State) : Host.Outcome State Fault Refusal :=
  .next (s.giveReport (.fatal f))

/-- The word `w` stored where the next fetch reads it, its high byte at PC. -/
def State.placeWord (w : Word) (s : State) : State :=
  s.setMem (s.mem.writeAll s.pc.toNat [hiByte w, loByte w])

end Sys2Proof.Machine
end

