-- ==== Sys2Proof/Machine/Flags.lean ====
section
/-! DEFINITION. VF in its flag role (10_state.md rule R22): the four flag values of 42_alu.md, and the two orders in
which a result and a flag are written (they differ where Vx is VF itself). -/

namespace Sys2Proof.Machine

/-- A condition as a flag byte: 1 or 0. -/
def flagByte (c : Bool) : Byte := if c then 1 else 0

/-- R126: 1 when the unsigned sum exceeds 255. -/
def carryFlag (a b : Byte) : Byte := flagByte (a.toNat + b.toNat > 255)

/-- R127, R129: 1 when the minuend is at least the subtrahend (no borrow). -/
def noBorrowFlag (minuend subtrahend : Byte) : Byte := flagByte (subtrahend.toNat ≤ minuend.toNat)

/-- R128: the bit a right shift by one shifts out. -/
def outRight (a : Byte) : Byte := a &&& 1

/-- R130: the bit a left shift by one shifts out. -/
def outLeft (a : Byte) : Byte := (a >>> 7) &&& 1

/-- R126, R127, R129: the result first and the flag last, so that VF as the destination ends with the flag (D6). -/
def State.resultThenFlag (x : Reg) (result flag : Byte) (s : State) : State := (s.setV x result).setV regF flag

/-- R128, R130: the flag first and the result last, so that VF as the destination ends with the result. -/
def State.flagThenResult (x : Reg) (flag result : Byte) (s : State) : State := (s.setV regF flag).setV x result

end Sys2Proof.Machine
end

