-- ==== Sys2Proof/Machine/Operands.lean ====
section
/-! DEFINITION. The operand forms: the data addresses of 43_index_memory.md rule R146, the register range V0..Vx of
rule R64, the decimal digits of rule R143, the keys of 45_timers_keys.md, and the draw RAND of 60_exceptions.md rule
R212. Every one is read from the state before the instruction writes anything (00_scope.md rule R11). -/

namespace Sys2Proof.Machine

/-- A 12-bit address zero-extended to 16 bits, `zext_16(nnn)` (R64). -/
def zext16 (nnn : Addr12) : Word := nnn.setWidth 16

/-- R107: `zext_16(nnn) + zext_16(v0)`, which 16 bits hold. -/
def offsetTarget (nnn : Addr12) (v0 : Byte) : Word := zext16 nnn + v0.setWidth 16

/-- R146: the data address `I + 0`, where every access of an instruction begins. It is not truncated (R23). -/
def State.dataBase (s : State) : Nat := s.i.toNat

/-- R141: `(i0 + vx) mod 0x1000`. -/
def indexSum (i0 : Word) (vx : Byte) : Word := BitVec.ofNat 16 ((i0.toNat + vx.toNat) % 0x1000)

/-- The values of V0..Vx, in order (R144). -/
def State.regsThrough (s : State) (x : Reg) : List Byte := s.v.toList.take (x.val + 1)

/-- R145: V0..Vx take the bytes in order; the registers after Vx keep their values. -/
def State.setRegsThrough (x : Reg) (bytes : List Byte) (s : State) : State :=
  s.withV (Vector.ofFn fun k => if k.val ≤ x.val then bytes.getD k.val 0 else s.getV k)

/-- R143: the hundreds, tens and units of a byte. -/
def bcdDigits (b : Byte) : List Byte :=
  [BitVec.ofNat 8 (b.toNat / 100), BitVec.ofNat 8 (b.toNat / 10 % 10), BitVec.ofNat 8 (b.toNat % 10)]

/-- Key[k] for a register's value: `none` where the value names no key (R180, R181). -/
def State.keyOf (s : State) (b : Byte) : Option Bool := s.key[b.toNat]?

/-- R183: `min { k | Key[k] = 1 }`, if any key is down. -/
def State.lowestKeyDown (s : State) : Option Nat := s.key.toList.findIdx? id

/-- The draw the coming CXNN receives: the RAND the Step call gave, else a free byte (R131, R212). -/
def State.draw (s : State) : Byte := s.port.rand.getD (Config.freeRand s.port.draws)

/-- The draw has been used: the next one is another. -/
def State.consumeDraw (s : State) : State := s.setSupply none (s.port.draws + 1)

end Sys2Proof.Machine
end

