-- ==== Sys2Proof/Machine/Alu.lean ====
section
/-! DEFINITION. The ALU (42_alu.md): immediate loads, the register-register operations and the random byte. Every
result is 8 bits and wraps modulo 256 (rule R132). -/

namespace Sys2Proof.Machine

/-- LD Vx, nn (R120). -/
def execLdImm (x : Reg) (nn : Byte) (s : State) : Host.Outcome State Fault Refusal := (s.setV x nn).advanced

/-- ADD Vx, nn (R121): no flag. -/
def execAddImm (x : Reg) (nn : Byte) (s : State) : Host.Outcome State Fault Refusal :=
  (s.setV x (s.getV x + nn)).advanced

/-- LD Vx, Vy (R122). -/
def execLdReg (x y : Reg) (s : State) : Host.Outcome State Fault Refusal := (s.setV x (s.getV y)).advanced

/-- OR Vx, Vy (R123). -/
def execOrReg (x y : Reg) (s : State) : Host.Outcome State Fault Refusal :=
  (s.setV x (s.getV x ||| s.getV y)).advanced

/-- AND Vx, Vy (R124). -/
def execAndReg (x y : Reg) (s : State) : Host.Outcome State Fault Refusal :=
  (s.setV x (s.getV x &&& s.getV y)).advanced

/-- XOR Vx, Vy (R125). -/
def execXorReg (x y : Reg) (s : State) : Host.Outcome State Fault Refusal :=
  (s.setV x (s.getV x ^^^ s.getV y)).advanced

/-- ADD Vx, Vy (R126). -/
def execAddReg (x y : Reg) (s : State) : Host.Outcome State Fault Refusal :=
  (s.resultThenFlag x (s.getV x + s.getV y) (carryFlag (s.getV x) (s.getV y))).advanced

/-- SUB Vx, Vy (R127). -/
def execSubReg (x y : Reg) (s : State) : Host.Outcome State Fault Refusal :=
  (s.resultThenFlag x (s.getV x - s.getV y) (noBorrowFlag (s.getV x) (s.getV y))).advanced

/-- SHR Vx (R128). `y` is not read. -/
def execShr (x _y : Reg) (s : State) : Host.Outcome State Fault Refusal :=
  (s.flagThenResult x (outRight (s.getV x)) (s.getV x >>> 1)).advanced

/-- SUBN Vx, Vy (R129). -/
def execSubnReg (x y : Reg) (s : State) : Host.Outcome State Fault Refusal :=
  (s.resultThenFlag x (s.getV y - s.getV x) (noBorrowFlag (s.getV y) (s.getV x))).advanced

/-- SHL Vx (R130). `y` is not read. -/
def execShl (x _y : Reg) (s : State) : Host.Outcome State Fault Refusal :=
  (s.flagThenResult x (outLeft (s.getV x)) (s.getV x <<< 1)).advanced

/-- RND Vx, nn (R131). -/
def execRnd (x : Reg) (nn : Byte) (s : State) : Host.Outcome State Fault Refusal :=
  ((s.setV x (s.draw &&& nn)).consumeDraw).advanced

end Sys2Proof.Machine
end

