-- ==== Sys2Proof/Machine/Control.lean ====
section
/-! DEFINITION. Control flow (41_control_flow.md). Every meaning starts with PC = pc0 + 2 (rule R80). -/

namespace Sys2Proof.Machine

/-- RET (R100). The popped slot keeps its value (D29). -/
def execRet (s : State) : Host.Outcome State Fault Refusal :=
  if h : 0 < s.sp.val then
    have hk : s.sp.val - 1 < 16 := by have := s.sp.isLt; omega
    ((s.setStack s.stack ⟨s.sp.val - 1, by omega⟩).setPc (s.slot ⟨s.sp.val - 1, hk⟩)).advanced
  else s.raiseFatal .stackUnderflow .ret none

/-- JP nnn (R101). -/
def execJp (nnn : Addr12) (s : State) : Host.Outcome State Fault Refusal := (s.setPc (zext16 nnn)).advanced

/-- CALL nnn (R102). The return address is the advanced PC. -/
def execCall (nnn : Addr12) (s : State) : Host.Outcome State Fault Refusal :=
  if h : s.sp.val < 16 then
    ((s.setStack (s.stack.set s.sp.val s.pc) ⟨s.sp.val + 1, by omega⟩).setPc (zext16 nnn)).advanced
  else s.raiseFatal .stackOverflow (.call nnn) none

/-- SE Vx, nn (R103). -/
def execSeImm (x : Reg) (nn : Byte) (s : State) : Host.Outcome State Fault Refusal := s.skipIf (s.getV x == nn)

/-- SNE Vx, nn (R104). -/
def execSneImm (x : Reg) (nn : Byte) (s : State) : Host.Outcome State Fault Refusal := s.skipIf (s.getV x != nn)

/-- SE Vx, Vy (R105). -/
def execSeReg (x y : Reg) (s : State) : Host.Outcome State Fault Refusal := s.skipIf (s.getV x == s.getV y)

/-- SNE Vx, Vy (R106). -/
def execSneReg (x y : Reg) (s : State) : Host.Outcome State Fault Refusal := s.skipIf (s.getV x != s.getV y)

/-- JP V0, nnn (R107). -/
def execJpV0 (nnn : Addr12) (s : State) : Host.Outcome State Fault Refusal :=
  (s.setPc (offsetTarget nnn (s.getV 0))).advanced

end Sys2Proof.Machine
end

