-- ==== Sys2Proof/Machine/Display.lean ====
section
/-! DEFINITION. The framebuffer operations (44_display.md). A draw in progress is the framebuffer so far and the
collision so far. -/

namespace Sys2Proof.Machine

/-- A draw in progress: FB and `collided` of R161. -/
abbrev Drawing := Framebuffer × Bool

/-- R161, the inner body for one lit bit: note a collision, then exclusive-or the cell. -/
def Drawing.pixel (px : Fin 64) (py : Fin 32) (d : Drawing) : Drawing :=
  (d.1.flip py px, d.2 || d.1.cell py px)

/-- R161: `(cx + c) mod 64`. -/
def pixelCol (cx c : Nat) : Fin 64 := ⟨(cx + c) % 64, Nat.mod_lt _ (by decide)⟩

/-- R161: `(cy + r) mod 32`. -/
def pixelRow (cy r : Nat) : Fin 32 := ⟨(cy + r) % 32, Nat.mod_lt _ (by decide)⟩

/-- R161: is bit `7 - c` of a sprite row 1? Bit 7 is the leftmost pixel (D10). -/
def spriteBit (row : Byte) (c : Nat) : Bool := row.getLsbD (7 - c)

/-- R161, the loop over the columns of one sprite row, which lands on screen row `py`. -/
def Drawing.row (row : Byte) (cx : Nat) (py : Fin 32) (d : Drawing) : Drawing :=
  (List.range 8).foldl (fun d c => if spriteBit row c then d.pixel (pixelCol cx c) py else d) d

/-- R161, the loop over the sprite's rows from row `r` on. -/
def Drawing.sprite (cx cy : Nat) : Nat → List Byte → Drawing → Drawing
  | _, [], d => d
  | r, row :: rows, d => Drawing.sprite cx cy (r + 1) rows (Drawing.row row cx (pixelRow cy r) d)

/-- R161: the sprite drawn at (cx, cy), both read before VF is written (D9), and VF the collision. -/
def State.drawSprite (cx cy : Byte) (rows : List Byte) (s : State) : State :=
  let d := Drawing.sprite cx.toNat cy.toNat 0 rows (s.fb, false)
  (s.setFb d.1).setV regF (flagByte d.2)

/-- CLS (R160). -/
def execCls (s : State) : Host.Outcome State Fault Refusal := (s.setFb Framebuffer.clear).advanced

/-- DRW Vx, Vy, n (R161). -/
def execDrw (x y : Reg) (n : Fin 16) (s : State) : Host.Outcome State Fault Refusal :=
  s.loadAll (.drw x y n) s.dataBase n.val (State.drawSprite (s.getV x) (s.getV y))

end Sys2Proof.Machine
end

