-- ==== Sys2Proof/Machine/IndexMemory.lean ====
section
/-! DEFINITION. The index register and the memory operations (43_index_memory.md). -/

namespace Sys2Proof.Machine

/-- LD I, nnn (R140). -/
def execLdI (nnn : Addr12) (s : State) : Host.Outcome State Fault Refusal := (s.setI (zext16 nnn)).advanced

/-- ADD I, Vx (R141): VF is not changed (D30). -/
def execAddI (x : Reg) (s : State) : Host.Outcome State Fault Refusal :=
  (s.setI (indexSum s.i (s.getV x))).advanced

/-- LD F, Vx (R142). -/
def execLdF (x : Reg) (s : State) : Host.Outcome State Fault Refusal :=
  (s.setI (glyphAddress font (s.getV x))).advanced

/-- LD B, Vx (R143). -/
def execLdB (x : Reg) (s : State) : Host.Outcome State Fault Refusal :=
  s.storeAll (.ldB x) s.dataBase (bcdDigits (s.getV x))

/-- LD [I], Vx (R144): I is not changed (D15). -/
def execStoreRegs (x : Reg) (s : State) : Host.Outcome State Fault Refusal :=
  s.storeAll (.storeRegs x) s.dataBase (s.regsThrough x)

/-- LD Vx, [I] (R145): I is not changed (D15). -/
def execLoadRegs (x : Reg) (s : State) : Host.Outcome State Fault Refusal :=
  s.loadAll (.loadRegs x) s.dataBase (x.val + 1) (State.setRegsThrough x)

end Sys2Proof.Machine
end

