-- ==== Sys2Proof/Machine/KeysTimers.lean ====
section
/-! DEFINITION. The key and timer instructions (45_timers_keys.md). -/

namespace Sys2Proof.Machine

/-- SKP Vx (R180): a value above 0xF names no key and never skips (D17). -/
def execSkp (x : Reg) (s : State) : Host.Outcome State Fault Refusal := s.skipIf (s.keyOf (s.getV x) == some true)

/-- SKNP Vx (R181): a value above 0xF names no key and never skips (D17). -/
def execSknp (x : Reg) (s : State) : Host.Outcome State Fault Refusal := s.skipIf (s.keyOf (s.getV x) == some false)

/-- LD Vx, DT (R182). -/
def execLdVxDt (x : Reg) (s : State) : Host.Outcome State Fault Refusal := (s.setV x s.dt).advanced

/-- LD Vx, K (R183): level-sensitive, the lowest-numbered key (D16); with no key down, PC goes back to the
instruction. -/
def execLdVxK (x : Reg) (s : State) : Host.Outcome State Fault Refusal :=
  match s.lowestKeyDown with
  | some k => (s.setV x (BitVec.ofNat 8 k)).advanced
  | none => (s.setPc (s.pc - 2)).notAdvanced

/-- LD DT, Vx (R184). -/
def execLdDtVx (x : Reg) (s : State) : Host.Outcome State Fault Refusal := (s.setDt (s.getV x)).advanced

/-- LD ST, Vx (R185). -/
def execLdStVx (x : Reg) (s : State) : Host.Outcome State Fault Refusal := (s.setSt (s.getV x)).advanced

end Sys2Proof.Machine
end

