-- ==== Sys2Proof/Machine/Step.lean ====
section
/-! DEFINITION. One step of the engine (40_execution_cycle.md rule R80), and how a word comes to be the next one
fetched. -/

namespace Sys2Proof.Machine

/-- R80: the Step port. RAND comes through `State.port` (`State.draw`). -/
def step (s : State) : Host.Outcome State Fault Refusal :=
  match s.status with
  | .halted f => s.stepHalted f
  | .running =>
    match fetchBadAddr s.pc with
    | some bad => s.raiseFetchFatal bad
    | none =>
      match decode s.fetchWord with
      | .ok i => exec i s.advancePc
      | .error _ => s.advancePc.unknownNoOp

/-- The state with the instruction of a table row's bits stored at PC, and Running, so that the next step fetches
and runs it: the Load of R232 for one instruction. Bits above `nbits` are 0. -/
def State.withFetchWord (s : State) (nbits w : Nat) : State :=
  { s.placeWord (BitVec.ofNat 16 (w % 2 ^ nbits)) with status := .running }

end Sys2Proof.Machine
end

