-- ==== Sys2Proof/Machine/Ports.lean ====
section
/-! DEFINITION. The other host ports (60_exceptions.md rules R207 to R211, 70_reset_and_hazards.md rules R230 and
R232). Each is one atomic call between steps (rule R209); any order of calls is a legal schedule (rule R208). -/

namespace Sys2Proof.Machine

/-- One count toward zero (R207). -/
def countDown (b : Byte) : Byte := if 0 < b.toNat then b - 1 else b

/-- A port call that is ignored while Halted (D18). -/
def State.whileRunning (call : State → State) (s : State) : State :=
  match s.status with
  | .running => call s
  | .halted _ => s

/-- Tick (R207): both timers, independently, floored at 0. -/
def State.tick (s : State) : State :=
  s.whileRunning fun s => (s.setDt (countDown s.dt)).setSt (countDown s.st)

/-- KeyDown(k) (R210). -/
def State.keyDown (k : Fin 16) (s : State) : State :=
  s.whileRunning fun s => s.setKeys (s.key.set k true)

/-- KeyUp(k) (R210). -/
def State.keyUp (k : Fin 16) (s : State) : State :=
  s.whileRunning fun s => s.setKeys (s.key.set k false)

/-- ReadFramebuffer (R211): cell FB[r][c] at index r*64 + c. -/
def State.readFramebuffer (s : State) : List Bool := (s.fb.toList.map Vector.toList).flatten

/-- Load(image) (R232): admitted only before the first Step after Reset. -/
def State.load (image : List Byte) (s : State) : Host.Outcome State Fault Refusal :=
  if s.port.report.isSome then .refused .loadAfterStep
  else if imageFits image then .next (s.setMem (s.mem.writeAll Config.programBase image))
  else .refused .imageTooLong

/-- Step(RAND) (R80): the byte is offered to the step, and is gone after it whether or not it was read (R86). -/
def State.stepWith (rand : Byte) (s : State) : Host.Outcome State Fault Refusal :=
  match step (s.setSupply (some rand) s.port.draws) with
  | .next t => .next (t.setSupply none t.port.draws)
  | .fault f => .fault f
  | .refused r => .refused r

/-- The calls that change the core (R209). ReadFramebuffer changes nothing. -/
inductive PortCall where
  | reset
  | load (image : List Byte)
  | step (rand : Byte)
  | tick
  | keyDown (k : Fin 16)
  | keyUp (k : Fin 16)
  deriving DecidableEq, Repr

/-- One port call. -/
def State.serve (s : State) : PortCall → Host.Outcome State Fault Refusal
  | .reset => .next s.resetPort
  | .load image => s.load image
  | .step rand => s.stepWith rand
  | .tick => .next s.tick
  | .keyDown k => .next (s.keyDown k)
  | .keyUp k => .next (s.keyUp k)

/-- A schedule (R208): the calls one after another. A refused call changes nothing, and the host goes on. -/
def State.runSchedule (s : State) : List PortCall → State
  | [] => s
  | c :: cs =>
    match s.serve c with
    | .next t => t.runSchedule cs
    | .fault _ => s.runSchedule cs
    | .refused _ => s.runSchedule cs

end Sys2Proof.Machine
end

