-- ==== Sys2Proof/Safety.lean ====
section
/-! DEFINITION. The terms the claims are made in: the frame of an instruction, the registers each instruction may
write (10_state.md rule R22), the invariant of the core's state, the cause of a fatal error read from the fetched
word (60_exceptions.md rule R201), the PC after a step (40_execution_cycle.md rule R85), and what a sprite covers
(44_display.md rule R161). A run is safe while Status is Running. -/

namespace Sys2Proof.Machine

/-! ### Frames -/

/-- What a frame lets an instruction change, besides PC and the report of the step. -/
structure Changes where
  /-- the general registers -/
  regs : Reg → Prop := fun _ => False
  /-- the bytes of memory, by address -/
  bytes : Nat → Prop := fun _ => False
  /-- I -/
  index : Prop := False
  /-- the stack slots and SP -/
  stack : Prop := False
  /-- DT -/
  delay : Prop := False
  /-- ST -/
  sound : Prop := False
  /-- the framebuffer -/
  screen : Prop := False
  /-- the supply of random draws -/
  draw : Prop := False

/-- From `s` to `t` nothing has changed but what `c` lets change, PC, and the report of the step. The input latch and
Status are never let change. -/
structure Keeps (c : Changes) (s t : State) : Prop where
  regs : ∀ r, ¬ c.regs r → t.getV r = s.getV r
  bytes : ∀ a, ¬ c.bytes a → t.mem.read a = s.mem.read a
  index : ¬ c.index → t.i = s.i
  stack : ¬ c.stack → t.stack = s.stack ∧ t.sp = s.sp
  delay : ¬ c.delay → t.dt = s.dt
  sound : ¬ c.sound → t.st = s.st
  screen : ¬ c.screen → t.fb = s.fb
  draw : ¬ c.draw → t.port.rand = s.port.rand ∧ t.port.draws = s.port.draws
  keys : t.key = s.key
  status : t.status = s.status

/-- R202: `s` with Status Halted and the record reported, and nothing else changed: fatal entry as the step's
pre-state sees it. -/
def HaltedWith (s : State) (f : FaultRecord) : State :=
  { s with status := .halted f, port := { s.port with report := some (.fatal f) } }

/-- R81 in the rule of an instruction, which runs with PC advanced: the advance is undone as well. -/
def RolledBack (s : State) (f : FaultRecord) : State := HaltedWith { s with pc := s.pc - 2 } f

/-! ### Whole-machine rules -/

/-- R22 and the destination of each rule: may the instruction write register `r`? -/
def MayWrite (i : Instr) (r : Reg) : Prop :=
  match i with
  | .ldImm x _ | .addImm x _ | .ldReg x _ | .orReg x _ | .andReg x _ | .xorReg x _ | .rnd x _ | .ldVxDt x
  | .ldVxK x => r = x
  | .addReg x _ | .subReg x _ | .shr x _ | .subnReg x _ | .shl x _ => r = x ∨ r = regF
  | .drw _ _ _ => r = regF
  | .loadRegs x => r.val ≤ x.val
  | .cls | .ret | .jp _ | .call _ | .seImm _ _ | .sneImm _ _ | .seReg _ _ | .sneReg _ _ | .ldI _ | .jpV0 _
  | .skp _ | .sknp _ | .ldDtVx _ | .ldStVx _ | .addI _ | .ldF _ | .ldB _ | .storeRegs _ => False

/-- R201: what a fault record holds, kind by kind. -/
def FaultRecord.Proper (f : FaultRecord) : Prop :=
  match f.kind with
  | .stackOverflow | .stackUnderflow => f.word.isSome = true ∧ f.badAddr = none
  | .fetchOutOfRange =>
    f.word = none ∧ 0xFFF ≤ f.instrAddr.toNat ∧ f.badAddr = some (max f.instrAddr.toNat 0x1000)
  | .dataOutOfRange => f.word.isSome = true ∧ f.badAddr = some 0x1000

/-- What holds of every state the core reaches. `index`, `pc` and `returns` are the bounds of R23 and R24. -/
structure State.Inv (s : State) : Prop where
  /-- Memory keeps its canonical form. -/
  mem : s.mem.wf = true
  /-- R23: I holds a value in 0x000-0xFFF. -/
  index : s.i.toNat < 0x1000
  /-- R24: the largest value PC can hold is 0x10FE. -/
  pc : s.pc.toNat ≤ 0x10FE
  /-- R102: a pushed return address is at most 0x1000. -/
  returns : ∀ k, (s.slot k).toNat ≤ 0x1000
  /-- R201, R202: a Halted core holds a proper record of the instruction at PC, and has reported it. -/
  halted : ∀ f, s.status = .halted f → f.Proper ∧ f.instrAddr = s.pc ∧ s.port.report = some (.fatal f)

/-- R201, R204: the fatal error of the next step, read from PC, the nibbles of the fetched word, SP and I alone,
without the decoder. -/
def fatalCause (s : State) : Option FaultRecord :=
  let w := s.fetchWord
  let op := nibbleAt w 3
  let x := nibbleAt w 2
  let n := nibbleAt w 0
  let nn := w.toNat % 256
  if 0xFFF ≤ s.pc.toNat then some ⟨.fetchOutOfRange, s.pc, none, some (max s.pc.toNat 0x1000)⟩
  else if op = 0x2 ∧ s.sp.val = 16 then some ⟨.stackOverflow, s.pc, some w, none⟩
  else if w = 0x00EE ∧ s.sp.val = 0 then some ⟨.stackUnderflow, s.pc, some w, none⟩
  else if (op = 0xD ∧ 0 < n ∧ 0xFFF < s.i.toNat + n - 1) ∨
      (op = 0xF ∧ nn = 0x33 ∧ 0xFFF < s.i.toNat + 2) ∨
      (op = 0xF ∧ (nn = 0x55 ∨ nn = 0x65) ∧ 0xFFF < s.i.toNat + x) then
    some ⟨.dataOutOfRange, s.pc, some w, some 0x1000⟩
  else none

/-- R85, the table: PC after a step that raises no fatal error. `pc` is the address of the instruction. -/
def pcAfter (s : State) : Word :=
  let skip (c : Bool) : Word := if c then s.pc + 4 else s.pc + 2
  match decode s.fetchWord with
  | .ok (.jp nnn) => nnn.setWidth 16
  | .ok (.call nnn) => nnn.setWidth 16
  | .ok .ret => s.stack.toList.getD (s.sp.val - 1) 0
  | .ok (.jpV0 nnn) => BitVec.ofNat 16 (nnn.toNat + (s.getV 0).toNat)
  | .ok (.seImm x nn) => skip (s.getV x == nn)
  | .ok (.sneImm x nn) => skip (s.getV x != nn)
  | .ok (.seReg x y) => skip (s.getV x == s.getV y)
  | .ok (.sneReg x y) => skip (s.getV x != s.getV y)
  | .ok (.skp x) => skip (decide (∃ k : Fin 16, (s.getV x).toNat = k.val ∧ s.key[k] = true))
  | .ok (.sknp x) => skip (decide (∃ k : Fin 16, (s.getV x).toNat = k.val ∧ s.key[k] = false))
  | .ok (.ldVxK _) => if ∃ k : Fin 16, s.key[k] = true then s.pc + 2 else s.pc
  | _ => s.pc + 2

/-- R161: does a lit bit of the sprite DRW Vx, Vy, n draws land on cell (r, c)? -/
def Covers (s : State) (x y : Reg) (n : Fin 16) (r : Fin 32) (c : Fin 64) : Prop :=
  ∃ k j : Nat, k < n.val ∧ j < 8 ∧ (s.mem.read (s.dataBase + k)).getLsbD (7 - j) = true ∧
    r.val = ((s.getV y).toNat + k) % 32 ∧ c.val = ((s.getV x).toNat + j) % 64

/-- The meanings of several instructions one after another, as far as every one has a next state. -/
def execAll : List Instr → State → Option State
  | [], s => some s
  | i :: is, s =>
    match exec i s with
    | .next t => execAll is t
    | .fault _ => none
    | .refused _ => none

end Sys2Proof.Machine
end

