-- ==== Sys2Proof/Certificates/Slice0/Obligations.lean ====
section
/-! DEFINITION. The statements for the provers. Those about one instruction say that it answers a next state, what that
state holds, and its frame; those about the machine say what every step, or every schedule of port calls, does. -/

open Sys2Proof Sys2Proof.Machine

/-! ### One step -/

/-- 40_execution_cycle.md section 1 (rule R80): a Running core whose two bytes at PC are an instruction's word does,
in one step, that instruction's rule with PC advanced by 2. -/
def Obligations.StepRunsDecodedInstruction : Prop :=
  ∀ (s : State) (i : Instr), s.status = .running → s.pc.toNat + 1 ≤ 0xFFF →
    decode (wordOf (s.mem.read s.pc.toNat) (s.mem.read (s.pc.toNat + 1))) = .ok i →
    step s = exec i { s with pc := s.pc + 2 }

/-- R84: an unknown word, which is one R65 does not select (decision D5), is a no-op; 0x0000 is one. -/
def Obligations.UnknownWordIsNoOp : Prop :=
  selects 0x0000 = false ∧
  ∀ s : State, s.status = .running → s.pc.toNat + 1 ≤ 0xFFF →
    selects (wordOf (s.mem.read s.pc.toNat) (s.mem.read (s.pc.toNat + 1))) = false →
    step s = .next { s with pc := s.pc + 2, port := { s.port with report := some .advanced } }

/-- R44 (the check of a fetch is decision D12, and what it leaves decisions D18 and D19): PC = 0xFFF reports 0x1000,
and a PC above reports itself. -/
def Obligations.FetchBeyondMemoryHalts : Prop :=
  ∀ s : State, s.status = .running → 0xFFF ≤ s.pc.toNat →
    step s = .next (HaltedWith s
      ⟨.fetchOutOfRange, s.pc, none, some (if s.pc.toNat = 0xFFF then 0x1000 else s.pc.toNat)⟩)

/-- R83, R203, R207, R210 (decision D18): a Halted core stays as it is under every schedule without a Reset, and every
step of it reports its record; a Reset makes it Running. That a Load in the schedule changes nothing is R232 with
decision D22: a core that has halted has stepped, so the Load is refused (that the report tells so is log entry 5). -/
def Obligations.HaltedUntilReset : Prop :=
  ∀ (s : State) (f : FaultRecord), s.Inv → s.status = .halted f →
    step s = .next s ∧ s.resetPort.status = .running ∧
    ∀ cs : List PortCall, .reset ∉ cs →
      (s.runSchedule cs).setSupply none 0 = s.setSupply none 0

/-- R81, R201, R202, R204 (decisions D4, D12, D18 and D19; that DRW with n = 0 checks no address is D11): a step halts
in exactly the four cases of R201, with the record R201 gives, and then all else is as it was before the step; in
every other case it ends Running, Advanced or NotAdvanced (R82). -/
def Obligations.StepHaltsExactlyOnFatalCause : Prop :=
  ∀ s : State, s.status = .running → s.i.toNat < 0x1000 →
    (∀ f, fatalCause s = some f → step s = .next (HaltedWith s f)) ∧
    (fatalCause s = none → ∃ t, step s = .next t ∧ t.status = .running ∧
      (t.port.report = some .advanced ∨ t.port.report = some .notAdvanced))

/-- The invariant (R23, R24, R25, R201, R202, and the canonical form of memory) holds after Reset. -/
def Obligations.ResetEstablishesInvariant : Prop := State.reset.Inv

/-- From every state that has the invariant, a step answers a next state that has it (R23, R24, R86). -/
def Obligations.StepKeepsInvariant : Prop :=
  ∀ s : State, s.Inv → ∃ t, step s = .next t ∧ t.Inv

/-- The same of every schedule of port calls (R208; decisions D1 and D20): Reset, Load, Step, Tick, KeyDown and KeyUp
in any order. Which Loads are accepted is decision D22 and log entry 5. -/
def Obligations.ScheduleKeepsInvariant : Prop :=
  ∀ (s : State) (cs : List PortCall), s.Inv → (s.runSchedule cs).Inv

/-- R85 (the spec derives it, with decisions D4, D11, D13, D16 and D17): PC after every step that raises no fatal
error. -/
def Obligations.PcAfterEveryStep : Prop :=
  ∀ s : State, s.status = .running → fatalCause s = none → ∃ t, step s = .next t ∧ t.pc = pcAfter s

/-- R86, R212 (decisions D4 and D25): a step whose word is not Cxnn does the same whatever RAND it is given. -/
def Obligations.OnlyRndReadsTheDraw : Prop :=
  ∀ (s : State) (r₁ r₂ : Byte), nibbleAt s.fetchWord 3 ≠ 0xC → s.stepWith r₁ = s.stepWith r₂

/-- R80, R131, R212 (decision D25): a Step whose word is Cxnn uses the byte it was given, whatever it is, and the byte
is gone after it. -/
def Obligations.StepGivesItsByteToRnd : Prop :=
  ∀ (s : State) (rand nn : Byte) (x : Reg), s.status = .running → s.pc.toNat + 1 ≤ 0xFFF →
    decode s.fetchWord = .ok (.rnd x nn) →
    ∃ t, s.stepWith rand = .next t ∧ t.getV x = rand &&& nn ∧ t.pc = s.pc + 2 ∧ t.port.rand = none ∧
      t.port.report = some .advanced ∧ Keeps { regs := (· = x), draw := True } s t

/-- R22 (decisions D8 and D30): no instruction writes a general register but its destination, and VF only where R22
lists it. -/
def Obligations.OnlyNamedRegistersChange : Prop :=
  ∀ (i : Instr) (s t : State), exec i s = .next t → ∀ r, ¬ MayWrite i r → t.getV r = s.getV r

/-- R23, R25 to R28, R40: each other element of the state has only the writers the spec lists. -/
def Obligations.ElementsHaveOnlyTheirWriters : Prop :=
  ∀ (i : Instr) (s t : State), exec i s = .next t →
    t.key = s.key ∧
    (t.fb ≠ s.fb → i = .cls ∨ ∃ x y n, i = .drw x y n) ∧
    (t.stack ≠ s.stack ∨ t.sp ≠ s.sp → i = .ret ∨ ∃ nnn, i = .call nnn) ∧
    (t.mem ≠ s.mem → ∃ x, i = .ldB x ∨ i = .storeRegs x) ∧
    (t.i ≠ s.i → (∃ nnn, i = .ldI nnn) ∨ ∃ x, i = .addI x ∨ i = .ldF x) ∧
    (t.dt ≠ s.dt → ∃ x, i = .ldDtVx x) ∧
    (t.st ≠ s.st → ∃ x, i = .ldStVx x) ∧
    (t.status ≠ s.status → i = .ret ∨ (∃ nnn, i = .call nnn) ∨ (∃ x y n, i = .drw x y n) ∨
      ∃ x, i = .ldB x ∨ i = .storeRegs x ∨ i = .loadRegs x)

/-! ### Encoding -/

/-- R61, R63 (decision D4): decoding an encoded instruction gives it back, with every operand at every value. -/
def Obligations.DecodeOfEncode : Prop := ∀ i : Instr, decode (encode i) = .ok i

/-- R60, R63 (decision D4): a word that decodes to an instruction is that instruction's word, so no bit of it is
dropped. -/
def Obligations.EncodeOfDecode : Prop := ∀ (w : Word) (i : Instr), decode w = .ok i → encode i = w

/-- R62, R65 (decision D5): the decoder selects an instruction for exactly the words R65 lists. -/
def Obligations.DecodeSelectsExactlyTheTable : Prop :=
  ∀ w : Word, (∃ i, decode w = .ok i) ↔ selects w = true

/-- R63 (decision D4): every pattern of the table, with its fields at every value, decodes to its instruction. -/
def Obligations.EveryPatternDecodes : Prop :=
  decode 0x00E0 = .ok .cls ∧ decode 0x00EE = .ok .ret ∧
  (∀ nnn : Addr12, decode (0x1#4 ++ nnn) = .ok (.jp nnn) ∧ decode (0x2#4 ++ nnn) = .ok (.call nnn) ∧
    decode (0xA#4 ++ nnn) = .ok (.ldI nnn) ∧ decode (0xB#4 ++ nnn) = .ok (.jpV0 nnn)) ∧
  (∀ (x : BitVec 4) (nn : Byte),
    decode (0x3#4 ++ x ++ nn) = .ok (.seImm x.toFin nn) ∧ decode (0x4#4 ++ x ++ nn) = .ok (.sneImm x.toFin nn) ∧
    decode (0x6#4 ++ x ++ nn) = .ok (.ldImm x.toFin nn) ∧ decode (0x7#4 ++ x ++ nn) = .ok (.addImm x.toFin nn) ∧
    decode (0xC#4 ++ x ++ nn) = .ok (.rnd x.toFin nn)) ∧
  (∀ x y : BitVec 4,
    decode (0x5#4 ++ x ++ y ++ 0x0#4) = .ok (.seReg x.toFin y.toFin) ∧
    decode (0x8#4 ++ x ++ y ++ 0x0#4) = .ok (.ldReg x.toFin y.toFin) ∧
    decode (0x8#4 ++ x ++ y ++ 0x1#4) = .ok (.orReg x.toFin y.toFin) ∧
    decode (0x8#4 ++ x ++ y ++ 0x2#4) = .ok (.andReg x.toFin y.toFin) ∧
    decode (0x8#4 ++ x ++ y ++ 0x3#4) = .ok (.xorReg x.toFin y.toFin) ∧
    decode (0x8#4 ++ x ++ y ++ 0x4#4) = .ok (.addReg x.toFin y.toFin) ∧
    decode (0x8#4 ++ x ++ y ++ 0x5#4) = .ok (.subReg x.toFin y.toFin) ∧
    decode (0x8#4 ++ x ++ y ++ 0x6#4) = .ok (.shr x.toFin y.toFin) ∧
    decode (0x8#4 ++ x ++ y ++ 0x7#4) = .ok (.subnReg x.toFin y.toFin) ∧
    decode (0x8#4 ++ x ++ y ++ 0xE#4) = .ok (.shl x.toFin y.toFin) ∧
    decode (0x9#4 ++ x ++ y ++ 0x0#4) = .ok (.sneReg x.toFin y.toFin)) ∧
  (∀ x y n : BitVec 4, decode (0xD#4 ++ x ++ y ++ n) = .ok (.drw x.toFin y.toFin n.toFin)) ∧
  (∀ x : BitVec 4,
    decode (0xE#4 ++ x ++ 0x9E#8) = .ok (.skp x.toFin) ∧ decode (0xE#4 ++ x ++ 0xA1#8) = .ok (.sknp x.toFin) ∧
    decode (0xF#4 ++ x ++ 0x07#8) = .ok (.ldVxDt x.toFin) ∧ decode (0xF#4 ++ x ++ 0x0A#8) = .ok (.ldVxK x.toFin) ∧
    decode (0xF#4 ++ x ++ 0x15#8) = .ok (.ldDtVx x.toFin) ∧ decode (0xF#4 ++ x ++ 0x18#8) = .ok (.ldStVx x.toFin) ∧
    decode (0xF#4 ++ x ++ 0x1E#8) = .ok (.addI x.toFin) ∧ decode (0xF#4 ++ x ++ 0x29#8) = .ok (.ldF x.toFin) ∧
    decode (0xF#4 ++ x ++ 0x33#8) = .ok (.ldB x.toFin) ∧ decode (0xF#4 ++ x ++ 0x55#8) = .ok (.storeRegs x.toFin) ∧
    decode (0xF#4 ++ x ++ 0x65#8) = .ok (.loadRegs x.toFin))

/-- Words written out from R63, one of each family of the opcode table, and the three words the source itself gives
(0x00E0, 0x6A3C, 0x7A05); the other patterns are decision D4. -/
def Obligations.SampleWordsDecode : Prop :=
  decode 0x00E0 = .ok .cls ∧ decode 0x6A3C = .ok (.ldImm 0xA 0x3C) ∧ decode 0x7A05 = .ok (.addImm 0xA 0x05) ∧
  decode 0x2210 = .ok (.call 0x210) ∧ decode 0x8F15 = .ok (.subReg 0xF 0x1) ∧ decode 0xF533 = .ok (.ldB 0x5) ∧
  decode 0xD015 = .ok (.drw 0x0 0x1 0x5) ∧ decode 0xE4A1 = .ok (.sknp 0x4) ∧ decode 0x812F = .error .registerOp

/-! ### Memory -/

/-- R43, R50: of a memory in canonical form, a byte written at an address that exists is what is read there, every
other byte is as before, and the form is kept. -/
def Obligations.MemoryReadsLastWrite : Prop :=
  ∀ (m : Memory) (a b : Nat) (v : Byte), m.wf = true → a ≤ 0xFFF →
    (m.write a v).read b = (if b = a then v else m.read b) ∧ (m.write a v).wf = true

/-- R53 (decision D23): an instruction stored by LD [I], V1 at the address of PC is the one the next step runs. -/
def Obligations.StoredInstructionIsFetched : Prop :=
  ∀ (s : State) (i : Instr), s.mem.wf = true → s.status = .running → s.dataBase + 1 ≤ 0xFFF →
    s.dataBase = s.pc.toNat → decode (wordOf (s.getV 0) (s.getV 1)) = .ok i →
    ∃ t, exec (.storeRegs 1) s = .next t ∧ t.pc = s.pc ∧ step t = exec i { t with pc := t.pc + 2 }

/-! ### Reset -/

/-- R31, R230 (decisions D2, D3, D21): what Reset leaves in every element of the state. -/
def Obligations.ResetValues : Prop :=
  let s := State.reset
  (∀ a, a < Machine.font.base ∨ Machine.font.base + 80 ≤ a → s.mem.read a = 0) ∧
  (∀ k, k < 80 → s.mem.read (Machine.font.base + k) = defaultGlyphs.getD k 0) ∧
  (∀ r, s.getV r = 0) ∧ s.i = 0 ∧ s.pc = 0x200 ∧ (∀ k, s.slot k = 0) ∧ s.sp.val = 0 ∧ s.dt = 0 ∧ s.st = 0 ∧
  (∀ r c, s.fb.cell r c = false) ∧ (∀ k : Fin 16, s.key[k] = false) ∧ s.status = .running

/-! ### Control flow -/

/-- R101 (an odd target is decision D14): JP nnn. -/
def Obligations.JumpSetsPc : Prop :=
  ∀ (nnn : Addr12) (s : State), ∃ t, exec (.jp nnn) s = .next t ∧
    t.pc.toNat = nnn.toNat ∧ t.port.report = some .advanced ∧ Keeps {} s t

/-- R102 (its pattern is decision D4, and what a fatal error leaves decisions D12, D18 and D19): CALL nnn pushes the
advanced PC, and with SP = 16 raises STACK_OVERFLOW, which undoes the step. -/
def Obligations.CallPushesReturnAddress : Prop :=
  ∀ (nnn : Addr12) (s : State),
    decode (0x2#4 ++ nnn) = .ok (.call nnn) ∧
    (∀ h : s.sp.val < 16, ∃ t, exec (.call nnn) s = .next t ∧
      t.sp.val = s.sp.val + 1 ∧ t.slot ⟨s.sp.val, h⟩ = s.pc ∧ (∀ k, k.val ≠ s.sp.val → t.slot k = s.slot k) ∧
      t.pc.toNat = nnn.toNat ∧ t.port.report = some .advanced ∧ Keeps { stack := True } s t) ∧
    (s.sp.val = 16 → exec (.call nnn) s =
      .next (RolledBack s ⟨.stackOverflow, s.pc - 2, some (0x2#4 ++ nnn), none⟩))

/-- R100 (the kept slot is decision D29, and what a fatal error leaves decisions D12, D18 and D19): RET pops PC, and
with SP = 0 raises STACK_UNDERFLOW. -/
def Obligations.RetPopsReturnAddress : Prop :=
  ∀ s : State,
    (∀ k : Fin 16, s.sp.val = k.val + 1 → ∃ t, exec .ret s = .next t ∧
      t.sp.val = k.val ∧ t.stack = s.stack ∧ t.pc = s.slot k ∧ t.port.report = some .advanced ∧
      Keeps { stack := True } s t) ∧
    (s.sp.val = 0 → exec .ret s = .next (RolledBack s ⟨.stackUnderflow, s.pc - 2, some 0x00EE, none⟩))

/-- R103, R104 (their patterns are decision D4): SE Vx, nn and SNE Vx, nn add exactly 2 to PC when their condition
holds. -/
def Obligations.SkipOnImmediate : Prop :=
  ∀ (x : Reg) (nn : Byte) (s : State),
    decode (packXNN 0x3#4 x nn) = .ok (.seImm x nn) ∧ decode (packXNN 0x4#4 x nn) = .ok (.sneImm x nn) ∧
    (∃ t, exec (.seImm x nn) s = .next t ∧ t.pc = (if s.getV x = nn then s.pc + 2 else s.pc) ∧
      t.port.report = some .advanced ∧ Keeps {} s t) ∧
    (∃ t, exec (.sneImm x nn) s = .next t ∧ t.pc = (if s.getV x ≠ nn then s.pc + 2 else s.pc) ∧
      t.port.report = some .advanced ∧ Keeps {} s t)

/-- R105, R106 (which words they are is decision D5): SE Vx, Vy and SNE Vx, Vy. -/
def Obligations.SkipOnRegisters : Prop :=
  ∀ (x y : Reg) (s : State),
    (∃ t, exec (.seReg x y) s = .next t ∧ t.pc = (if s.getV x = s.getV y then s.pc + 2 else s.pc) ∧
      t.port.report = some .advanced ∧ Keeps {} s t) ∧
    (∃ t, exec (.sneReg x y) s = .next t ∧ t.pc = (if s.getV x ≠ s.getV y then s.pc + 2 else s.pc) ∧
      t.port.report = some .advanced ∧ Keeps {} s t)

/-- R107 (that the sum is not wrapped is decision D13): JP V0, nnn. -/
def Obligations.JumpWithOffset : Prop :=
  ∀ (nnn : Addr12) (s : State), ∃ t, exec (.jpV0 nnn) s = .next t ∧
    t.pc.toNat = nnn.toNat + (s.getV 0).toNat ∧ t.port.report = some .advanced ∧ Keeps {} s t

/-- The source's property S8 (95_test_vectors.md): N calls and then N returns restore PC and SP, for as many calls as
the stack has free slots, and change nothing else but the slots. -/
def Obligations.NestedCallsReturn : Prop :=
  ∀ (targets : List Addr12) (s : State), s.sp.val + targets.length ≤ 16 →
    ∃ t, execAll (targets.map Instr.call ++ List.replicate targets.length Instr.ret) s = some t ∧
      t.pc = s.pc ∧ t.sp = s.sp ∧ Keeps { stack := True } s t

/-! ### ALU -/

/-- R120, R121: LD Vx, nn and ADD Vx, nn, neither of which writes VF as a flag. -/
def Obligations.ImmediateLoadAndAdd : Prop :=
  ∀ (x : Reg) (nn : Byte) (s : State),
    decode (packXNN 0x6#4 x nn) = .ok (.ldImm x nn) ∧ decode (packXNN 0x7#4 x nn) = .ok (.addImm x nn) ∧
    (∃ t, exec (.ldImm x nn) s = .next t ∧ t.getV x = nn ∧
      t.pc = s.pc ∧ t.port.report = some .advanced ∧ Keeps { regs := (· = x) } s t) ∧
    (∃ t, exec (.addImm x nn) s = .next t ∧ (t.getV x).toNat = ((s.getV x).toNat + nn.toNat) % 256 ∧
      t.pc = s.pc ∧ t.port.report = some .advanced ∧ Keeps { regs := (· = x) } s t)

/-- R122 (its pattern is decision D4): LD Vx, Vy. -/
def Obligations.RegisterCopy : Prop :=
  ∀ (x y : Reg) (s : State),
    decode (packXYN 0x8#4 x y 0x0#4) = .ok (.ldReg x y) ∧
    ∃ t, exec (.ldReg x y) s = .next t ∧ t.getV x = s.getV y ∧
      t.pc = s.pc ∧ t.port.report = some .advanced ∧ Keeps { regs := (· = x) } s t

/-- R123, R124, R125 (that VF is not written as a flag is decision D8): OR, AND and XOR. -/
def Obligations.LogicOperations : Prop :=
  ∀ (x y : Reg) (s : State),
    (∃ t, exec (.orReg x y) s = .next t ∧ t.getV x = s.getV x ||| s.getV y ∧
      t.pc = s.pc ∧ t.port.report = some .advanced ∧ Keeps { regs := (· = x) } s t) ∧
    (∃ t, exec (.andReg x y) s = .next t ∧ t.getV x = s.getV x &&& s.getV y ∧
      t.pc = s.pc ∧ t.port.report = some .advanced ∧ Keeps { regs := (· = x) } s t) ∧
    (∃ t, exec (.xorReg x y) s = .next t ∧ t.getV x = s.getV x ^^^ s.getV y ∧
      t.pc = s.pc ∧ t.port.report = some .advanced ∧ Keeps { regs := (· = x) } s t)

/-- R126 (that the flag is written last is decision D6): ADD Vx, Vy. -/
def Obligations.AddWithCarry : Prop :=
  ∀ (x y : Reg) (s : State), ∃ t, exec (.addReg x y) s = .next t ∧
    (x ≠ regF → (t.getV x).toNat = ((s.getV x).toNat + (s.getV y).toNat) % 256) ∧
    t.getV regF = (if (s.getV x).toNat + (s.getV y).toNat > 255 then 1 else 0) ∧
    t.pc = s.pc ∧ t.port.report = some .advanced ∧ Keeps { regs := fun r => r = x ∨ r = regF } s t

/-- R127, R129 (that the flag is written last is decision D6): SUB Vx, Vy and SUBN Vx, Vy. -/
def Obligations.SubtractWithNoBorrow : Prop :=
  ∀ (x y : Reg) (s : State),
    (∃ t, exec (.subReg x y) s = .next t ∧
      (x ≠ regF → (t.getV x).toNat = ((s.getV x).toNat + 256 - (s.getV y).toNat) % 256) ∧
      t.getV regF = (if (s.getV x).toNat ≥ (s.getV y).toNat then 1 else 0) ∧
      t.pc = s.pc ∧ t.port.report = some .advanced ∧ Keeps { regs := fun r => r = x ∨ r = regF } s t) ∧
    (∃ t, exec (.subnReg x y) s = .next t ∧
      (x ≠ regF → (t.getV x).toNat = ((s.getV y).toNat + 256 - (s.getV x).toNat) % 256) ∧
      t.getV regF = (if (s.getV y).toNat ≥ (s.getV x).toNat then 1 else 0) ∧
      t.pc = s.pc ∧ t.port.report = some .advanced ∧ Keeps { regs := fun r => r = x ∨ r = regF } s t)

/-- R128, R130 (which register is shifted is decision D7): SHR Vx and SHL Vx. The result is written last, so it is
what VF ends with when it is the destination. -/
def Obligations.ShiftByOne : Prop :=
  ∀ (x y : Reg) (s : State),
    (∃ t, exec (.shr x y) s = .next t ∧ (t.getV x).toNat = (s.getV x).toNat / 2 ∧
      (x ≠ regF → (t.getV regF).toNat = (s.getV x).toNat % 2) ∧
      t.pc = s.pc ∧ t.port.report = some .advanced ∧ Keeps { regs := fun r => r = x ∨ r = regF } s t) ∧
    (∃ t, exec (.shl x y) s = .next t ∧ (t.getV x).toNat = (s.getV x).toNat * 2 % 256 ∧
      (x ≠ regF → (t.getV regF).toNat = (s.getV x).toNat / 128) ∧
      t.pc = s.pc ∧ t.port.report = some .advanced ∧ Keeps { regs := fun r => r = x ∨ r = regF } s t)

/-- R131 (that RAND has no law is decision D25): RND Vx, nn ANDs the byte the Step call gave, whatever it is; where
the call gave none, the byte is the free draw, of which nothing is known. Each draw is used once. -/
def Obligations.RandomByteMasked : Prop :=
  ∀ (x : Reg) (nn : Byte) (s : State), ∃ t, exec (.rnd x nn) s = .next t ∧
    (∀ rand, s.port.rand = some rand → t.getV x = rand &&& nn) ∧
    (s.port.rand = none → t.getV x = Config.freeRand s.port.draws &&& nn) ∧
    t.port.rand = none ∧ t.port.draws = s.port.draws + 1 ∧
    t.pc = s.pc ∧ t.port.report = some .advanced ∧ Keeps { regs := (· = x), draw := True } s t

/-! ### The index register and memory -/

/-- R140 (its pattern is decision D4): LD I, nnn. -/
def Obligations.SetIndex : Prop :=
  ∀ (nnn : Addr12) (s : State),
    decode (0xA#4 ++ nnn) = .ok (.ldI nnn) ∧
    ∃ t, exec (.ldI nnn) s = .next t ∧ t.i.toNat = nnn.toNat ∧
      t.pc = s.pc ∧ t.port.report = some .advanced ∧ Keeps { index := True } s t

/-- R141 (that VF is not changed is decision D30): ADD I, Vx. -/
def Obligations.AddToIndex : Prop :=
  ∀ (x : Reg) (s : State), ∃ t, exec (.addI x) s = .next t ∧
    t.i.toNat = (s.i.toNat + (s.getV x).toNat) % 0x1000 ∧
    t.pc = s.pc ∧ t.port.report = some .advanced ∧ Keeps { index := True } s t

/-- R142 (that Vx is not masked is decision D31): LD F, Vx, with the font the machine takes; and of every legal font
the glyph's address is the sum, not wrapped, and at most 0x6AB (R23). -/
def Obligations.FontCharacter : Prop :=
  (∀ (x : Reg) (s : State), ∃ t, exec (.ldF x) s = .next t ∧
    t.i.toNat = Machine.font.base + 5 * (s.getV x).toNat ∧
    t.pc = s.pc ∧ t.port.report = some .advanced ∧ Keeps { index := True } s t) ∧
  (∀ (f : Config.Font) (vx : Byte), f.legal = true →
    (glyphAddress f vx).toNat = f.base + 5 * vx.toNat ∧ (glyphAddress f vx).toNat ≤ 0x6AB)

/-- R143 (its pattern is decision D4, and what a fatal error leaves decisions D12, D18 and D19): LD B, Vx stores the
three digits, or, where I is 0xFFE or above, raises DATA_OUT_OF_RANGE and stores nothing. -/
def Obligations.StoreBcdDigits : Prop :=
  ∀ (x : Reg) (s : State), s.mem.wf = true → s.i.toNat ≤ 0xFFF →
    decode (packXNN 0xF#4 x 0x33#8) = .ok (.ldB x) ∧
    (s.i.toNat + 2 ≤ 0xFFF → ∃ t, exec (.ldB x) s = .next t ∧
      (t.mem.read s.dataBase).toNat = (s.getV x).toNat / 100 ∧
      (t.mem.read (s.dataBase + 1)).toNat = (s.getV x).toNat / 10 % 10 ∧
      (t.mem.read (s.dataBase + 2)).toNat = (s.getV x).toNat % 10 ∧
      t.pc = s.pc ∧ t.port.report = some .advanced ∧
      Keeps { bytes := fun a => s.dataBase ≤ a ∧ a < s.dataBase + 3 } s t) ∧
    (s.i.toNat + 2 > 0xFFF → exec (.ldB x) s =
      .next (RolledBack s ⟨.dataOutOfRange, s.pc - 2, some (packXNN 0xF#4 x 0x33#8), some 0x1000⟩))

/-- R144 (that I is unchanged is decision D15, and what a fatal error leaves D12, D18 and D19): LD [I], Vx stores
V0..Vx, or raises DATA_OUT_OF_RANGE and stores nothing. -/
def Obligations.DumpRegisters : Prop :=
  ∀ (x : Reg) (s : State), s.mem.wf = true → s.i.toNat ≤ 0xFFF →
    (s.i.toNat + x.val ≤ 0xFFF → ∃ t, exec (.storeRegs x) s = .next t ∧
      (∀ k : Reg, k.val ≤ x.val → t.mem.read (s.dataBase + k.val) = s.getV k) ∧
      t.pc = s.pc ∧ t.port.report = some .advanced ∧
      Keeps { bytes := fun a => s.dataBase ≤ a ∧ a ≤ s.dataBase + x.val } s t) ∧
    (s.i.toNat + x.val > 0xFFF → exec (.storeRegs x) s =
      .next (RolledBack s ⟨.dataOutOfRange, s.pc - 2, some (packXNN 0xF#4 x 0x55#8), some 0x1000⟩))

/-- R145 (that I is unchanged is decision D15, and what a fatal error leaves D12, D18 and D19): LD Vx, [I] loads
V0..Vx, or raises DATA_OUT_OF_RANGE and loads nothing. -/
def Obligations.LoadRegisters : Prop :=
  ∀ (x : Reg) (s : State), s.i.toNat ≤ 0xFFF →
    (s.i.toNat + x.val ≤ 0xFFF → ∃ t, exec (.loadRegs x) s = .next t ∧
      (∀ k : Reg, k.val ≤ x.val → t.getV k = s.mem.read (s.dataBase + k.val)) ∧
      t.pc = s.pc ∧ t.port.report = some .advanced ∧ Keeps { regs := fun r => r.val ≤ x.val } s t) ∧
    (s.i.toNat + x.val > 0xFFF → exec (.loadRegs x) s =
      .next (RolledBack s ⟨.dataOutOfRange, s.pc - 2, some (packXNN 0xF#4 x 0x65#8), some 0x1000⟩))

/-- R144, R145: registers dumped, then anything loaded into V0..Vx, then loaded back from the same I are the registers
dumped. -/
def Obligations.DumpThenLoadRestores : Prop :=
  ∀ (x : Reg) (s t : State) (v : Vector Byte 16), s.mem.wf = true → s.i.toNat + x.val ≤ 0xFFF →
    exec (.storeRegs x) s = .next t →
    ∃ u, exec (.loadRegs x) (t.withV v) = .next u ∧
      (∀ k : Reg, u.getV k = if k.val ≤ x.val then s.getV k else v[k]) ∧ u.mem = t.mem

/-! ### The display -/

/-- R160: CLS. -/
def Obligations.ClearScreen : Prop :=
  decode 0x00E0 = .ok .cls ∧
  ∀ s : State, ∃ t, exec .cls s = .next t ∧ (∀ r c, t.fb.cell r c = false) ∧
    t.pc = s.pc ∧ t.port.report = some .advanced ∧ Keeps { screen := True } s t

/-- R161 (decisions D9, D10, D11): DRW flips exactly the cells a lit bit of the sprite lands on, with both coordinates
wrapped, and sets VF to 1 exactly when one of them was lit. With n = 0 it needs no byte of memory. -/
def Obligations.DrawXorsSprite : Prop :=
  ∀ (x y : Reg) (n : Fin 16) (s : State), n.val = 0 ∨ s.i.toNat + n.val - 1 ≤ 0xFFF →
    ∃ t, exec (.drw x y n) s = .next t ∧
      (∀ r c, Covers s x y n r c → t.fb.cell r c = !s.fb.cell r c) ∧
      (∀ r c, ¬ Covers s x y n r c → t.fb.cell r c = s.fb.cell r c) ∧
      ((∃ r c, Covers s x y n r c ∧ s.fb.cell r c = true) → t.getV regF = 1) ∧
      ((¬ ∃ r c, Covers s x y n r c ∧ s.fb.cell r c = true) → t.getV regF = 0) ∧
      t.pc = s.pc ∧ t.port.report = some .advanced ∧ Keeps { regs := (· = regF), screen := True } s t

/-- R161, R81 (decisions D12, D18 and D19): a sprite that reaches beyond 0xFFF raises DATA_OUT_OF_RANGE and draws
nothing. -/
def Obligations.DrawOutOfRangeHalts : Prop :=
  ∀ (x y : Reg) (n : Fin 16) (s : State), s.i.toNat ≤ 0xFFF → 0 < n.val → s.i.toNat + n.val - 1 > 0xFFF →
    exec (.drw x y n) s = .next (RolledBack s
      ⟨.dataOutOfRange, s.pc - 2, some (packXYN 0xD#4 x y (BitVec.ofNat 4 n.val)), some 0x1000⟩)

/-- R162, the first sentence (the source's property S6): after a draw, VF is 1 if and only if some cell that was lit
is unlit, and else 0. -/
def Obligations.CollisionIsSetToUnset : Prop :=
  ∀ (x y : Reg) (n : Fin 16) (s t : State), exec (.drw x y n) s = .next t → t.status = s.status →
    s.status = .running →
    ((∃ r c, s.fb.cell r c = true ∧ t.fb.cell r c = false) → t.getV regF = 1) ∧
    ((¬ ∃ r c, s.fb.cell r c = true ∧ t.fb.cell r c = false) → t.getV regF = 0)

/-- R162, the rest (decisions D9 and D10): the same sprite drawn again at the same place, with nothing in between but
the registers restored (the first draw has written VF, which may be a coordinate), gives back the framebuffer before
the first draw. It reports VF = 1 when some cell it erases was unlit before the first draw, which on a clear screen is
whenever the sprite has a set bit, and else 0 (log entry 9). -/
def Obligations.DrawTwiceRestoresScreen : Prop :=
  ∀ (x y : Reg) (n : Fin 16) (s t : State), s.status = .running → exec (.drw x y n) s = .next t →
    t.status = .running →
    ∃ u, exec (.drw x y n) (t.withV s.v) = .next u ∧ u.fb = s.fb ∧
      ((∃ r c, Covers s x y n r c ∧ s.fb.cell r c = false) → u.getV regF = 1) ∧
      ((¬ ∃ r c, Covers s x y n r c ∧ s.fb.cell r c = false) → u.getV regF = 0)

/-! ### Keys and timers -/

/-- R180, R181 (that a value above 0xF skips on neither is decision D17): SKP Vx and SKNP Vx. -/
def Obligations.KeySkips : Prop :=
  ∀ (x : Reg) (s : State),
    (∃ t, exec (.skp x) s = .next t ∧
      (∀ k : Fin 16, (s.getV x).toNat = k.val → t.pc = if s.key[k] then s.pc + 2 else s.pc) ∧
      ((s.getV x).toNat > 0xF → t.pc = s.pc) ∧ t.port.report = some .advanced ∧ Keeps {} s t) ∧
    (∃ t, exec (.sknp x) s = .next t ∧
      (∀ k : Fin 16, (s.getV x).toNat = k.val → t.pc = if s.key[k] then s.pc else s.pc + 2) ∧
      ((s.getV x).toNat > 0xF → t.pc = s.pc) ∧ t.port.report = some .advanced ∧ Keeps {} s t)

/-- R183 (level-sensitive, the lowest key: decision D16): LD Vx, K takes the lowest-numbered key that is down; with
none down it goes back to its own address, NotAdvanced, and changes nothing else. -/
def Obligations.WaitForKey : Prop :=
  ∀ (x : Reg) (s : State),
    (∀ k : Fin 16, s.key[k] = true → (∀ j : Fin 16, j < k → s.key[j] = false) →
      ∃ t, exec (.ldVxK x) s = .next t ∧ (t.getV x).toNat = k.val ∧
        t.pc = s.pc ∧ t.port.report = some .advanced ∧ Keeps { regs := (· = x) } s t) ∧
    ((∀ k : Fin 16, s.key[k] = false) →
      ∃ t, exec (.ldVxK x) s = .next t ∧
        t.pc = s.pc - 2 ∧ t.port.report = some .notAdvanced ∧ Keeps {} s t)

/-- R182, R184, R185 (their patterns are decision D4): the three timer instructions. -/
def Obligations.TimerInstructions : Prop :=
  ∀ (x : Reg) (s : State),
    decode (packXNN 0xF#4 x 0x07#8) = .ok (.ldVxDt x) ∧ decode (packXNN 0xF#4 x 0x15#8) = .ok (.ldDtVx x) ∧
    decode (packXNN 0xF#4 x 0x18#8) = .ok (.ldStVx x) ∧
    (∃ t, exec (.ldVxDt x) s = .next t ∧ t.getV x = s.dt ∧
      t.pc = s.pc ∧ t.port.report = some .advanced ∧ Keeps { regs := (· = x) } s t) ∧
    (∃ t, exec (.ldDtVx x) s = .next t ∧ t.dt = s.getV x ∧
      t.pc = s.pc ∧ t.port.report = some .advanced ∧ Keeps { delay := True } s t) ∧
    (∃ t, exec (.ldStVx x) s = .next t ∧ t.st = s.getV x ∧
      t.pc = s.pc ∧ t.port.report = some .advanced ∧ Keeps { sound := True } s t)

/-! ### Host ports -/

/-- R207 (that a Halted core ignores it is decision D18): Tick counts both timers down, each floored at 0, and changes
nothing else. -/
def Obligations.TickCountsDown : Prop :=
  ∀ s : State,
    (s.status = .running → s.tick.dt.toNat = s.dt.toNat - 1 ∧ s.tick.st.toNat = s.st.toNat - 1 ∧
      s.tick.pc = s.pc ∧ s.tick.port = s.port ∧ Keeps { delay := True, sound := True } s s.tick) ∧
    (∀ f, s.status = .halted f → s.tick = s)

/-- R210 (that a Halted core ignores them is decision D18): KeyDown and KeyUp set one key of the latch, and change
nothing else. -/
def Obligations.KeyPortsSetLatch : Prop :=
  ∀ (k : Fin 16) (s : State),
    (s.status = .running →
      (∀ j : Fin 16, (s.keyDown k).key[j] = if j = k then true else s.key[j]) ∧
      (∀ j : Fin 16, (s.keyUp k).key[j] = if j = k then false else s.key[j]) ∧
      (s.keyDown k).setKeys s.key = s ∧ (s.keyUp k).setKeys s.key = s) ∧
    (∀ f, s.status = .halted f → s.keyDown k = s ∧ s.keyUp k = s)

/-- R211: the snapshot holds the 2048 cells, FB[r][c] at index r*64 + c. -/
def Obligations.FramebufferIsRowMajor : Prop :=
  ∀ s : State, s.readFramebuffer.length = 2048 ∧
    ∀ (r : Fin 32) (c : Fin 64), s.readFramebuffer[r.val * 64 + c.val]? = some (s.fb.cell r c)

/-- R232 (that it refuses is decision D22): Load copies the image to 0x200 on, and refuses one that is too long, or
any after the first Step. That 'before the first Step' is 'no report' is the model's own reading, on which every
clause rests (log entry 5). -/
def Obligations.LoadCopiesImage : Prop :=
  ∀ (image : List Byte) (s : State), s.mem.wf = true →
    (s.port.report = none → image.length ≤ 0xE00 → ∃ t, s.load image = .next t ∧
      (∀ k, k < image.length → t.mem.read (0x200 + k) = image.getD k 0) ∧
      t.pc = s.pc ∧ t.port = s.port ∧
      Keeps { bytes := fun a => 0x200 ≤ a ∧ a < 0x200 + image.length } s t) ∧
    (s.port.report = none → image.length > 0xE00 → s.load image = .refused .imageTooLong) ∧
    (s.port.report ≠ none → s.load image = .refused .loadAfterStep)

/-- R230, R203 (that Reset can be used again is decision D18): whatever the state, Reset leaves the state after reset;
only the count of the model's free draws goes on. -/
def Obligations.ResetPortRestores : Prop :=
  ∀ s : State, s.resetPort.setSupply none 0 = State.reset ∧ s.resetPort.port.draws = s.port.draws
end

