-- ==== Sys2Proof/Laws/Decode.lean ====
section
/-! SUPPORT. The fields of a word built from a pattern (30_encoding.md rule R61 against rule R63), and a word from its
two bytes. Each is a division and a remainder of the word's number. -/

namespace Sys2Proof

@[simp] theorem nibbleNum_nibbleBits (k : Fin 16) : nibbleNum (nibbleBits k) = k := by
  have := k.isLt
  apply Fin.ext
  simp only [nibbleNum, nibbleBits, BitVec.toNat_ofNat]
  omega

@[simp] theorem nibbleBits_nibbleNum (b : BitVec 4) : nibbleBits (nibbleNum b) = b := by
  simp [nibbleBits, nibbleNum]

@[simp] theorem nibbleBits_toNat (k : Fin 16) : (nibbleBits k).toNat = k.val :=
  congrArg Fin.val (nibbleNum_nibbleBits k)

/-- The number of a concatenation. -/
theorem toNat_append_add {m n : Nat} (u : BitVec m) (v : BitVec n) :
    (u ++ v).toNat = u.toNat * 2 ^ n + v.toNat := by
  rw [BitVec.toNat_append, ← Nat.shiftLeft_add_eq_or_of_lt v.isLt, Nat.shiftLeft_eq]

/-- The number of a field `w[start + len - 1 : start]`. -/
theorem toNat_extract {n : Nat} (w : BitVec n) (start len : Nat) :
    (w.extractLsb' start len).toNat = w.toNat / 2 ^ start % 2 ^ len := by
  rw [BitVec.extractLsb'_toNat, Nat.shiftRight_eq_div_pow]

/-! ### Pattern `oxnn` -/

theorem fieldOp_packXNN (op : BitVec 4) (x : Reg) (nn : Byte) : fieldOp (packXNN op x nn) = op := by
  have := op.isLt; have := nn.isLt; have := (nibbleBits x).isLt
  apply BitVec.eq_of_toNat_eq
  simp only [fieldOp, packXNN, toNat_extract, toNat_append_add]
  omega

theorem fieldX_packXNN (op : BitVec 4) (x : Reg) (nn : Byte) : fieldX (packXNN op x nn) = nibbleBits x := by
  have := op.isLt; have := nn.isLt; have := (nibbleBits x).isLt
  apply BitVec.eq_of_toNat_eq
  simp only [fieldX, packXNN, toNat_extract, toNat_append_add]
  omega

theorem fieldNN_packXNN (op : BitVec 4) (x : Reg) (nn : Byte) : fieldNN (packXNN op x nn) = nn := by
  have := op.isLt; have := nn.isLt; have := (nibbleBits x).isLt
  apply BitVec.eq_of_toNat_eq
  simp only [fieldNN, packXNN, toNat_extract, toNat_append_add]
  omega

/-! ### Pattern `onnn` -/

theorem fieldOp_packNNN (op : BitVec 4) (nnn : Addr12) : fieldOp (packNNN op nnn) = op := by
  have := op.isLt; have := nnn.isLt
  apply BitVec.eq_of_toNat_eq
  simp only [fieldOp, packNNN, toNat_extract, toNat_append_add]
  omega

theorem fieldNNN_packNNN (op : BitVec 4) (nnn : Addr12) : fieldNNN (packNNN op nnn) = nnn := by
  have := op.isLt; have := nnn.isLt
  apply BitVec.eq_of_toNat_eq
  simp only [fieldNNN, packNNN, toNat_extract, toNat_append_add]
  omega

/-! ### Pattern `oxyn` -/

theorem fieldOp_packXYN (op : BitVec 4) (x y : Reg) (n : BitVec 4) : fieldOp (packXYN op x y n) = op := by
  have := op.isLt; have := n.isLt; have := (nibbleBits x).isLt; have := (nibbleBits y).isLt
  apply BitVec.eq_of_toNat_eq
  simp only [fieldOp, packXYN, toNat_extract, toNat_append_add]
  omega

theorem fieldX_packXYN (op : BitVec 4) (x y : Reg) (n : BitVec 4) : fieldX (packXYN op x y n) = nibbleBits x := by
  have := op.isLt; have := n.isLt; have := (nibbleBits x).isLt; have := (nibbleBits y).isLt
  apply BitVec.eq_of_toNat_eq
  simp only [fieldX, packXYN, toNat_extract, toNat_append_add]
  omega

theorem fieldY_packXYN (op : BitVec 4) (x y : Reg) (n : BitVec 4) : fieldY (packXYN op x y n) = nibbleBits y := by
  have := op.isLt; have := n.isLt; have := (nibbleBits x).isLt; have := (nibbleBits y).isLt
  apply BitVec.eq_of_toNat_eq
  simp only [fieldY, packXYN, toNat_extract, toNat_append_add]
  omega

theorem fieldN_packXYN (op : BitVec 4) (x y : Reg) (n : BitVec 4) : fieldN (packXYN op x y n) = n := by
  have := op.isLt; have := n.isLt; have := (nibbleBits x).isLt; have := (nibbleBits y).isLt
  apply BitVec.eq_of_toNat_eq
  simp only [fieldN, packXYN, toNat_extract, toNat_append_add]
  omega

/-! ### A word from its fields -/

/-- R61: `op`, `x` and `nn` make up the word. -/
theorem packXNN_fields (w : Word) : packXNN (fieldOp w) (nibbleNum (fieldX w)) (fieldNN w) = w := by
  have := w.isLt
  apply BitVec.eq_of_toNat_eq
  simp only [packXNN, nibbleBits_nibbleNum, fieldOp, fieldX, fieldNN, toNat_extract, toNat_append_add]
  omega

/-- R61: `op` and `nnn` make up the word. -/
theorem packNNN_fields (w : Word) : packNNN (fieldOp w) (fieldNNN w) = w := by
  have := w.isLt
  apply BitVec.eq_of_toNat_eq
  simp only [packNNN, fieldOp, fieldNNN, toNat_extract, toNat_append_add]
  omega

/-- R61: `op`, `x`, `y` and `n` make up the word. -/
theorem packXYN_fields (w : Word) :
    packXYN (fieldOp w) (nibbleNum (fieldX w)) (nibbleNum (fieldY w)) (fieldN w) = w := by
  have := w.isLt
  apply BitVec.eq_of_toNat_eq
  simp only [packXYN, nibbleBits_nibbleNum, fieldOp, fieldX, fieldY, fieldN, toNat_extract, toNat_append_add]
  omega

/-- The same, with `op` known by its number. -/
theorem packXNN_of_op {w : Word} {op : BitVec 4} (h : (fieldOp w).toNat = op.toNat) :
    packXNN op (nibbleNum (fieldX w)) (fieldNN w) = w := by
  rw [← BitVec.eq_of_toNat_eq h, packXNN_fields]

theorem packNNN_of_op {w : Word} {op : BitVec 4} (h : (fieldOp w).toNat = op.toNat) :
    packNNN op (fieldNNN w) = w := by
  rw [← BitVec.eq_of_toNat_eq h, packNNN_fields]

theorem packXYN_of_op {w : Word} {op : BitVec 4} (h : (fieldOp w).toNat = op.toNat) :
    packXYN op (nibbleNum (fieldX w)) (nibbleNum (fieldY w)) (fieldN w) = w := by
  rw [← BitVec.eq_of_toNat_eq h, packXYN_fields]

/-! ### The nested switches: an instruction they give has the word they were given -/

theorem encode_of_decodeRegisterOp {x y : Reg} {n : BitVec 4} {i : Instr} (h : decodeRegisterOp x y n = .ok i) :
    encode i = packXYN 0x8#4 x y n := by
  unfold decodeRegisterOp at h
  split at h
  all_goals first
    | cases h; done
    | (rename_i hn; cases h; rw [encode]; congr 1; exact (BitVec.eq_of_toNat_eq hn).symm)

theorem encode_of_decodeKeyOp {x : Reg} {nn : Byte} {i : Instr} (h : decodeKeyOp x nn = .ok i) :
    encode i = packXNN 0xE#4 x nn := by
  unfold decodeKeyOp at h
  split at h
  all_goals first
    | cases h; done
    | (rename_i hn; cases h; rw [encode]; congr 1; exact (BitVec.eq_of_toNat_eq hn).symm)

theorem encode_of_decodeMiscOp {x : Reg} {nn : Byte} {i : Instr} (h : decodeMiscOp x nn = .ok i) :
    encode i = packXNN 0xF#4 x nn := by
  unfold decodeMiscOp at h
  split at h
  all_goals first
    | cases h; done
    | (rename_i hn; cases h; rw [encode]; congr 1; exact (BitVec.eq_of_toNat_eq hn).symm)

/-! ### A word and its bytes -/

/-- R44: the two bytes of a word, high byte first, make it up again. -/
@[simp] theorem wordOf_bytes (w : Word) : wordOf (hiByte w) (loByte w) = w := by
  have := w.isLt
  apply BitVec.eq_of_toNat_eq
  simp only [wordOf, hiByte, loByte, toNat_extract, toNat_append_add]
  omega

/-- A table row's bits are decoded as the word they are. -/
theorem decodeTableWord_eq (nbits w : Nat) :
    decodeTableWord nbits w = match decode (BitVec.ofNat 16 (w % 2 ^ nbits)) with
      | .ok i => some i
      | .error _ => none := by
  simp only [decodeTableWord, decodeBytes, wordOf_bytes]
  cases decode (BitVec.ofNat 16 (w % 2 ^ nbits)) <;> rfl

/-! ### Nibbles as numbers (`selects`) -/

theorem nibbleAt_three (w : Word) : nibbleAt w 3 = (fieldOp w).toNat := by
  rw [fieldOp, toNat_extract, nibbleAt]; rfl

theorem nibbleAt_two (w : Word) : nibbleAt w 2 = (fieldX w).toNat := by
  rw [fieldX, toNat_extract, nibbleAt]; rfl

theorem nibbleAt_zero (w : Word) : nibbleAt w 0 = (fieldN w).toNat := by
  rw [fieldN, toNat_extract, nibbleAt]; rfl

theorem toNat_mod_256 (w : Word) : w.toNat % 256 = (fieldNN w).toNat := by
  rw [fieldNN, toNat_extract, Nat.pow_zero, Nat.div_one]; rfl

end Sys2Proof
end

