-- ==== Sys2Proof/Laws/State.lean ====
section
/-! SUPPORT. What each update of the state does to each field, one lemma per field per update, and what it does to
the registers as `State.getV` reads them. No later proof unfolds a record update. -/

namespace Sys2Proof.Machine

/-! ### `State.setV` -/

@[simp] theorem State.setV_mem (s : State) (x : Reg) (b : Byte) : (s.setV x b).mem = s.mem := rfl
@[simp] theorem State.setV_v (s : State) (x : Reg) (b : Byte) : (s.setV x b).v = s.v.set x b := rfl
@[simp] theorem State.setV_i (s : State) (x : Reg) (b : Byte) : (s.setV x b).i = s.i := rfl
@[simp] theorem State.setV_pc (s : State) (x : Reg) (b : Byte) : (s.setV x b).pc = s.pc := rfl
@[simp] theorem State.setV_stack (s : State) (x : Reg) (b : Byte) : (s.setV x b).stack = s.stack := rfl
@[simp] theorem State.setV_sp (s : State) (x : Reg) (b : Byte) : (s.setV x b).sp = s.sp := rfl
@[simp] theorem State.setV_dt (s : State) (x : Reg) (b : Byte) : (s.setV x b).dt = s.dt := rfl
@[simp] theorem State.setV_st (s : State) (x : Reg) (b : Byte) : (s.setV x b).st = s.st := rfl
@[simp] theorem State.setV_fb (s : State) (x : Reg) (b : Byte) : (s.setV x b).fb = s.fb := rfl
@[simp] theorem State.setV_key (s : State) (x : Reg) (b : Byte) : (s.setV x b).key = s.key := rfl
@[simp] theorem State.setV_status (s : State) (x : Reg) (b : Byte) : (s.setV x b).status = s.status := rfl
@[simp] theorem State.setV_rand (s : State) (x : Reg) (b : Byte) : (s.setV x b).port.rand = s.port.rand := rfl
@[simp] theorem State.setV_draws (s : State) (x : Reg) (b : Byte) : (s.setV x b).port.draws = s.port.draws := rfl
@[simp] theorem State.setV_report (s : State) (x : Reg) (b : Byte) : (s.setV x b).port.report = s.port.report := rfl

/-! ### `State.withV` -/

@[simp] theorem State.withV_mem (s : State) (v : Vector Byte 16) : (s.withV v).mem = s.mem := rfl
@[simp] theorem State.withV_v (s : State) (v : Vector Byte 16) : (s.withV v).v = v := rfl
@[simp] theorem State.withV_i (s : State) (v : Vector Byte 16) : (s.withV v).i = s.i := rfl
@[simp] theorem State.withV_pc (s : State) (v : Vector Byte 16) : (s.withV v).pc = s.pc := rfl
@[simp] theorem State.withV_stack (s : State) (v : Vector Byte 16) : (s.withV v).stack = s.stack := rfl
@[simp] theorem State.withV_sp (s : State) (v : Vector Byte 16) : (s.withV v).sp = s.sp := rfl
@[simp] theorem State.withV_dt (s : State) (v : Vector Byte 16) : (s.withV v).dt = s.dt := rfl
@[simp] theorem State.withV_st (s : State) (v : Vector Byte 16) : (s.withV v).st = s.st := rfl
@[simp] theorem State.withV_fb (s : State) (v : Vector Byte 16) : (s.withV v).fb = s.fb := rfl
@[simp] theorem State.withV_key (s : State) (v : Vector Byte 16) : (s.withV v).key = s.key := rfl
@[simp] theorem State.withV_status (s : State) (v : Vector Byte 16) : (s.withV v).status = s.status := rfl
@[simp] theorem State.withV_rand (s : State) (v : Vector Byte 16) : (s.withV v).port.rand = s.port.rand := rfl
@[simp] theorem State.withV_draws (s : State) (v : Vector Byte 16) : (s.withV v).port.draws = s.port.draws := rfl
@[simp] theorem State.withV_report (s : State) (v : Vector Byte 16) : (s.withV v).port.report = s.port.report := rfl

/-! ### `State.setI` -/

@[simp] theorem State.setI_mem (s : State) (w : Word) : (s.setI w).mem = s.mem := rfl
@[simp] theorem State.setI_v (s : State) (w : Word) : (s.setI w).v = s.v := rfl
@[simp] theorem State.setI_i (s : State) (w : Word) : (s.setI w).i = w := rfl
@[simp] theorem State.setI_pc (s : State) (w : Word) : (s.setI w).pc = s.pc := rfl
@[simp] theorem State.setI_stack (s : State) (w : Word) : (s.setI w).stack = s.stack := rfl
@[simp] theorem State.setI_sp (s : State) (w : Word) : (s.setI w).sp = s.sp := rfl
@[simp] theorem State.setI_dt (s : State) (w : Word) : (s.setI w).dt = s.dt := rfl
@[simp] theorem State.setI_st (s : State) (w : Word) : (s.setI w).st = s.st := rfl
@[simp] theorem State.setI_fb (s : State) (w : Word) : (s.setI w).fb = s.fb := rfl
@[simp] theorem State.setI_key (s : State) (w : Word) : (s.setI w).key = s.key := rfl
@[simp] theorem State.setI_status (s : State) (w : Word) : (s.setI w).status = s.status := rfl
@[simp] theorem State.setI_rand (s : State) (w : Word) : (s.setI w).port.rand = s.port.rand := rfl
@[simp] theorem State.setI_draws (s : State) (w : Word) : (s.setI w).port.draws = s.port.draws := rfl
@[simp] theorem State.setI_report (s : State) (w : Word) : (s.setI w).port.report = s.port.report := rfl
@[simp] theorem State.setI_getV (s : State) (w : Word) (x : Reg) : (s.setI w).getV x = s.getV x := rfl

/-! ### `State.setPc` -/

@[simp] theorem State.setPc_mem (s : State) (w : Word) : (s.setPc w).mem = s.mem := rfl
@[simp] theorem State.setPc_v (s : State) (w : Word) : (s.setPc w).v = s.v := rfl
@[simp] theorem State.setPc_i (s : State) (w : Word) : (s.setPc w).i = s.i := rfl
@[simp] theorem State.setPc_pc (s : State) (w : Word) : (s.setPc w).pc = w := rfl
@[simp] theorem State.setPc_stack (s : State) (w : Word) : (s.setPc w).stack = s.stack := rfl
@[simp] theorem State.setPc_sp (s : State) (w : Word) : (s.setPc w).sp = s.sp := rfl
@[simp] theorem State.setPc_dt (s : State) (w : Word) : (s.setPc w).dt = s.dt := rfl
@[simp] theorem State.setPc_st (s : State) (w : Word) : (s.setPc w).st = s.st := rfl
@[simp] theorem State.setPc_fb (s : State) (w : Word) : (s.setPc w).fb = s.fb := rfl
@[simp] theorem State.setPc_key (s : State) (w : Word) : (s.setPc w).key = s.key := rfl
@[simp] theorem State.setPc_status (s : State) (w : Word) : (s.setPc w).status = s.status := rfl
@[simp] theorem State.setPc_rand (s : State) (w : Word) : (s.setPc w).port.rand = s.port.rand := rfl
@[simp] theorem State.setPc_draws (s : State) (w : Word) : (s.setPc w).port.draws = s.port.draws := rfl
@[simp] theorem State.setPc_report (s : State) (w : Word) : (s.setPc w).port.report = s.port.report := rfl
@[simp] theorem State.setPc_getV (s : State) (w : Word) (x : Reg) : (s.setPc w).getV x = s.getV x := rfl

/-! ### `State.setDt` -/

@[simp] theorem State.setDt_mem (s : State) (b : Byte) : (s.setDt b).mem = s.mem := rfl
@[simp] theorem State.setDt_v (s : State) (b : Byte) : (s.setDt b).v = s.v := rfl
@[simp] theorem State.setDt_i (s : State) (b : Byte) : (s.setDt b).i = s.i := rfl
@[simp] theorem State.setDt_pc (s : State) (b : Byte) : (s.setDt b).pc = s.pc := rfl
@[simp] theorem State.setDt_stack (s : State) (b : Byte) : (s.setDt b).stack = s.stack := rfl
@[simp] theorem State.setDt_sp (s : State) (b : Byte) : (s.setDt b).sp = s.sp := rfl
@[simp] theorem State.setDt_dt (s : State) (b : Byte) : (s.setDt b).dt = b := rfl
@[simp] theorem State.setDt_st (s : State) (b : Byte) : (s.setDt b).st = s.st := rfl
@[simp] theorem State.setDt_fb (s : State) (b : Byte) : (s.setDt b).fb = s.fb := rfl
@[simp] theorem State.setDt_key (s : State) (b : Byte) : (s.setDt b).key = s.key := rfl
@[simp] theorem State.setDt_status (s : State) (b : Byte) : (s.setDt b).status = s.status := rfl
@[simp] theorem State.setDt_rand (s : State) (b : Byte) : (s.setDt b).port.rand = s.port.rand := rfl
@[simp] theorem State.setDt_draws (s : State) (b : Byte) : (s.setDt b).port.draws = s.port.draws := rfl
@[simp] theorem State.setDt_report (s : State) (b : Byte) : (s.setDt b).port.report = s.port.report := rfl
@[simp] theorem State.setDt_getV (s : State) (b : Byte) (x : Reg) : (s.setDt b).getV x = s.getV x := rfl

/-! ### `State.setSt` -/

@[simp] theorem State.setSt_mem (s : State) (b : Byte) : (s.setSt b).mem = s.mem := rfl
@[simp] theorem State.setSt_v (s : State) (b : Byte) : (s.setSt b).v = s.v := rfl
@[simp] theorem State.setSt_i (s : State) (b : Byte) : (s.setSt b).i = s.i := rfl
@[simp] theorem State.setSt_pc (s : State) (b : Byte) : (s.setSt b).pc = s.pc := rfl
@[simp] theorem State.setSt_stack (s : State) (b : Byte) : (s.setSt b).stack = s.stack := rfl
@[simp] theorem State.setSt_sp (s : State) (b : Byte) : (s.setSt b).sp = s.sp := rfl
@[simp] theorem State.setSt_dt (s : State) (b : Byte) : (s.setSt b).dt = s.dt := rfl
@[simp] theorem State.setSt_st (s : State) (b : Byte) : (s.setSt b).st = b := rfl
@[simp] theorem State.setSt_fb (s : State) (b : Byte) : (s.setSt b).fb = s.fb := rfl
@[simp] theorem State.setSt_key (s : State) (b : Byte) : (s.setSt b).key = s.key := rfl
@[simp] theorem State.setSt_status (s : State) (b : Byte) : (s.setSt b).status = s.status := rfl
@[simp] theorem State.setSt_rand (s : State) (b : Byte) : (s.setSt b).port.rand = s.port.rand := rfl
@[simp] theorem State.setSt_draws (s : State) (b : Byte) : (s.setSt b).port.draws = s.port.draws := rfl
@[simp] theorem State.setSt_report (s : State) (b : Byte) : (s.setSt b).port.report = s.port.report := rfl
@[simp] theorem State.setSt_getV (s : State) (b : Byte) (x : Reg) : (s.setSt b).getV x = s.getV x := rfl

/-! ### `State.setMem` -/

@[simp] theorem State.setMem_mem (s : State) (m : Memory) : (s.setMem m).mem = m := rfl
@[simp] theorem State.setMem_v (s : State) (m : Memory) : (s.setMem m).v = s.v := rfl
@[simp] theorem State.setMem_i (s : State) (m : Memory) : (s.setMem m).i = s.i := rfl
@[simp] theorem State.setMem_pc (s : State) (m : Memory) : (s.setMem m).pc = s.pc := rfl
@[simp] theorem State.setMem_stack (s : State) (m : Memory) : (s.setMem m).stack = s.stack := rfl
@[simp] theorem State.setMem_sp (s : State) (m : Memory) : (s.setMem m).sp = s.sp := rfl
@[simp] theorem State.setMem_dt (s : State) (m : Memory) : (s.setMem m).dt = s.dt := rfl
@[simp] theorem State.setMem_st (s : State) (m : Memory) : (s.setMem m).st = s.st := rfl
@[simp] theorem State.setMem_fb (s : State) (m : Memory) : (s.setMem m).fb = s.fb := rfl
@[simp] theorem State.setMem_key (s : State) (m : Memory) : (s.setMem m).key = s.key := rfl
@[simp] theorem State.setMem_status (s : State) (m : Memory) : (s.setMem m).status = s.status := rfl
@[simp] theorem State.setMem_rand (s : State) (m : Memory) : (s.setMem m).port.rand = s.port.rand := rfl
@[simp] theorem State.setMem_draws (s : State) (m : Memory) : (s.setMem m).port.draws = s.port.draws := rfl
@[simp] theorem State.setMem_report (s : State) (m : Memory) : (s.setMem m).port.report = s.port.report := rfl
@[simp] theorem State.setMem_getV (s : State) (m : Memory) (x : Reg) : (s.setMem m).getV x = s.getV x := rfl

/-! ### `State.setFb` -/

@[simp] theorem State.setFb_mem (s : State) (fb : Framebuffer) : (s.setFb fb).mem = s.mem := rfl
@[simp] theorem State.setFb_v (s : State) (fb : Framebuffer) : (s.setFb fb).v = s.v := rfl
@[simp] theorem State.setFb_i (s : State) (fb : Framebuffer) : (s.setFb fb).i = s.i := rfl
@[simp] theorem State.setFb_pc (s : State) (fb : Framebuffer) : (s.setFb fb).pc = s.pc := rfl
@[simp] theorem State.setFb_stack (s : State) (fb : Framebuffer) : (s.setFb fb).stack = s.stack := rfl
@[simp] theorem State.setFb_sp (s : State) (fb : Framebuffer) : (s.setFb fb).sp = s.sp := rfl
@[simp] theorem State.setFb_dt (s : State) (fb : Framebuffer) : (s.setFb fb).dt = s.dt := rfl
@[simp] theorem State.setFb_st (s : State) (fb : Framebuffer) : (s.setFb fb).st = s.st := rfl
@[simp] theorem State.setFb_fb (s : State) (fb : Framebuffer) : (s.setFb fb).fb = fb := rfl
@[simp] theorem State.setFb_key (s : State) (fb : Framebuffer) : (s.setFb fb).key = s.key := rfl
@[simp] theorem State.setFb_status (s : State) (fb : Framebuffer) : (s.setFb fb).status = s.status := rfl
@[simp] theorem State.setFb_rand (s : State) (fb : Framebuffer) : (s.setFb fb).port.rand = s.port.rand := rfl
@[simp] theorem State.setFb_draws (s : State) (fb : Framebuffer) : (s.setFb fb).port.draws = s.port.draws := rfl
@[simp] theorem State.setFb_report (s : State) (fb : Framebuffer) : (s.setFb fb).port.report = s.port.report := rfl
@[simp] theorem State.setFb_getV (s : State) (fb : Framebuffer) (x : Reg) : (s.setFb fb).getV x = s.getV x := rfl

/-! ### `State.setStack` -/

@[simp] theorem State.setStack_mem (s : State) (slots : Vector Word 16) (n : Fin 17) : (s.setStack slots n).mem = s.mem := rfl
@[simp] theorem State.setStack_v (s : State) (slots : Vector Word 16) (n : Fin 17) : (s.setStack slots n).v = s.v := rfl
@[simp] theorem State.setStack_i (s : State) (slots : Vector Word 16) (n : Fin 17) : (s.setStack slots n).i = s.i := rfl
@[simp] theorem State.setStack_pc (s : State) (slots : Vector Word 16) (n : Fin 17) : (s.setStack slots n).pc = s.pc := rfl
@[simp] theorem State.setStack_stack (s : State) (slots : Vector Word 16) (n : Fin 17) : (s.setStack slots n).stack = slots := rfl
@[simp] theorem State.setStack_sp (s : State) (slots : Vector Word 16) (n : Fin 17) : (s.setStack slots n).sp = n := rfl
@[simp] theorem State.setStack_dt (s : State) (slots : Vector Word 16) (n : Fin 17) : (s.setStack slots n).dt = s.dt := rfl
@[simp] theorem State.setStack_st (s : State) (slots : Vector Word 16) (n : Fin 17) : (s.setStack slots n).st = s.st := rfl
@[simp] theorem State.setStack_fb (s : State) (slots : Vector Word 16) (n : Fin 17) : (s.setStack slots n).fb = s.fb := rfl
@[simp] theorem State.setStack_key (s : State) (slots : Vector Word 16) (n : Fin 17) : (s.setStack slots n).key = s.key := rfl
@[simp] theorem State.setStack_status (s : State) (slots : Vector Word 16) (n : Fin 17) : (s.setStack slots n).status = s.status := rfl
@[simp] theorem State.setStack_rand (s : State) (slots : Vector Word 16) (n : Fin 17) : (s.setStack slots n).port.rand = s.port.rand := rfl
@[simp] theorem State.setStack_draws (s : State) (slots : Vector Word 16) (n : Fin 17) : (s.setStack slots n).port.draws = s.port.draws := rfl
@[simp] theorem State.setStack_report (s : State) (slots : Vector Word 16) (n : Fin 17) : (s.setStack slots n).port.report = s.port.report := rfl
@[simp] theorem State.setStack_getV (s : State) (slots : Vector Word 16) (n : Fin 17) (x : Reg) : (s.setStack slots n).getV x = s.getV x := rfl

/-! ### `State.setKeys` -/

@[simp] theorem State.setKeys_mem (s : State) (key : Vector Bool 16) : (s.setKeys key).mem = s.mem := rfl
@[simp] theorem State.setKeys_v (s : State) (key : Vector Bool 16) : (s.setKeys key).v = s.v := rfl
@[simp] theorem State.setKeys_i (s : State) (key : Vector Bool 16) : (s.setKeys key).i = s.i := rfl
@[simp] theorem State.setKeys_pc (s : State) (key : Vector Bool 16) : (s.setKeys key).pc = s.pc := rfl
@[simp] theorem State.setKeys_stack (s : State) (key : Vector Bool 16) : (s.setKeys key).stack = s.stack := rfl
@[simp] theorem State.setKeys_sp (s : State) (key : Vector Bool 16) : (s.setKeys key).sp = s.sp := rfl
@[simp] theorem State.setKeys_dt (s : State) (key : Vector Bool 16) : (s.setKeys key).dt = s.dt := rfl
@[simp] theorem State.setKeys_st (s : State) (key : Vector Bool 16) : (s.setKeys key).st = s.st := rfl
@[simp] theorem State.setKeys_fb (s : State) (key : Vector Bool 16) : (s.setKeys key).fb = s.fb := rfl
@[simp] theorem State.setKeys_key (s : State) (key : Vector Bool 16) : (s.setKeys key).key = key := rfl
@[simp] theorem State.setKeys_status (s : State) (key : Vector Bool 16) : (s.setKeys key).status = s.status := rfl
@[simp] theorem State.setKeys_rand (s : State) (key : Vector Bool 16) : (s.setKeys key).port.rand = s.port.rand := rfl
@[simp] theorem State.setKeys_draws (s : State) (key : Vector Bool 16) : (s.setKeys key).port.draws = s.port.draws := rfl
@[simp] theorem State.setKeys_report (s : State) (key : Vector Bool 16) : (s.setKeys key).port.report = s.port.report := rfl
@[simp] theorem State.setKeys_getV (s : State) (key : Vector Bool 16) (x : Reg) : (s.setKeys key).getV x = s.getV x := rfl

/-! ### `State.setSupply` -/

@[simp] theorem State.setSupply_mem (s : State) (r : Option Byte) (n : Nat) : (s.setSupply r n).mem = s.mem := rfl
@[simp] theorem State.setSupply_v (s : State) (r : Option Byte) (n : Nat) : (s.setSupply r n).v = s.v := rfl
@[simp] theorem State.setSupply_i (s : State) (r : Option Byte) (n : Nat) : (s.setSupply r n).i = s.i := rfl
@[simp] theorem State.setSupply_pc (s : State) (r : Option Byte) (n : Nat) : (s.setSupply r n).pc = s.pc := rfl
@[simp] theorem State.setSupply_stack (s : State) (r : Option Byte) (n : Nat) : (s.setSupply r n).stack = s.stack := rfl
@[simp] theorem State.setSupply_sp (s : State) (r : Option Byte) (n : Nat) : (s.setSupply r n).sp = s.sp := rfl
@[simp] theorem State.setSupply_dt (s : State) (r : Option Byte) (n : Nat) : (s.setSupply r n).dt = s.dt := rfl
@[simp] theorem State.setSupply_st (s : State) (r : Option Byte) (n : Nat) : (s.setSupply r n).st = s.st := rfl
@[simp] theorem State.setSupply_fb (s : State) (r : Option Byte) (n : Nat) : (s.setSupply r n).fb = s.fb := rfl
@[simp] theorem State.setSupply_key (s : State) (r : Option Byte) (n : Nat) : (s.setSupply r n).key = s.key := rfl
@[simp] theorem State.setSupply_status (s : State) (r : Option Byte) (n : Nat) : (s.setSupply r n).status = s.status := rfl
@[simp] theorem State.setSupply_rand (s : State) (r : Option Byte) (n : Nat) : (s.setSupply r n).port.rand = r := rfl
@[simp] theorem State.setSupply_draws (s : State) (r : Option Byte) (n : Nat) : (s.setSupply r n).port.draws = n := rfl
@[simp] theorem State.setSupply_report (s : State) (r : Option Byte) (n : Nat) : (s.setSupply r n).port.report = s.port.report := rfl
@[simp] theorem State.setSupply_getV (s : State) (r : Option Byte) (n : Nat) (x : Reg) : (s.setSupply r n).getV x = s.getV x := rfl

/-! ### `State.giveReport` -/

@[simp] theorem State.giveReport_mem (s : State) (r : StepResult) : (s.giveReport r).mem = s.mem := rfl
@[simp] theorem State.giveReport_v (s : State) (r : StepResult) : (s.giveReport r).v = s.v := rfl
@[simp] theorem State.giveReport_i (s : State) (r : StepResult) : (s.giveReport r).i = s.i := rfl
@[simp] theorem State.giveReport_pc (s : State) (r : StepResult) : (s.giveReport r).pc = s.pc := rfl
@[simp] theorem State.giveReport_stack (s : State) (r : StepResult) : (s.giveReport r).stack = s.stack := rfl
@[simp] theorem State.giveReport_sp (s : State) (r : StepResult) : (s.giveReport r).sp = s.sp := rfl
@[simp] theorem State.giveReport_dt (s : State) (r : StepResult) : (s.giveReport r).dt = s.dt := rfl
@[simp] theorem State.giveReport_st (s : State) (r : StepResult) : (s.giveReport r).st = s.st := rfl
@[simp] theorem State.giveReport_fb (s : State) (r : StepResult) : (s.giveReport r).fb = s.fb := rfl
@[simp] theorem State.giveReport_key (s : State) (r : StepResult) : (s.giveReport r).key = s.key := rfl
@[simp] theorem State.giveReport_status (s : State) (r : StepResult) : (s.giveReport r).status = s.status := rfl
@[simp] theorem State.giveReport_rand (s : State) (r : StepResult) : (s.giveReport r).port.rand = s.port.rand := rfl
@[simp] theorem State.giveReport_draws (s : State) (r : StepResult) : (s.giveReport r).port.draws = s.port.draws := rfl
@[simp] theorem State.giveReport_report (s : State) (r : StepResult) : (s.giveReport r).port.report = some r := rfl
@[simp] theorem State.giveReport_getV (s : State) (r : StepResult) (x : Reg) : (s.giveReport r).getV x = s.getV x := rfl

/-! ### `State.enterHalted` -/

@[simp] theorem State.enterHalted_mem (s : State) (f : FaultRecord) : (s.enterHalted f).mem = s.mem := rfl
@[simp] theorem State.enterHalted_v (s : State) (f : FaultRecord) : (s.enterHalted f).v = s.v := rfl
@[simp] theorem State.enterHalted_i (s : State) (f : FaultRecord) : (s.enterHalted f).i = s.i := rfl
@[simp] theorem State.enterHalted_pc (s : State) (f : FaultRecord) : (s.enterHalted f).pc = f.instrAddr := rfl
@[simp] theorem State.enterHalted_stack (s : State) (f : FaultRecord) : (s.enterHalted f).stack = s.stack := rfl
@[simp] theorem State.enterHalted_sp (s : State) (f : FaultRecord) : (s.enterHalted f).sp = s.sp := rfl
@[simp] theorem State.enterHalted_dt (s : State) (f : FaultRecord) : (s.enterHalted f).dt = s.dt := rfl
@[simp] theorem State.enterHalted_st (s : State) (f : FaultRecord) : (s.enterHalted f).st = s.st := rfl
@[simp] theorem State.enterHalted_fb (s : State) (f : FaultRecord) : (s.enterHalted f).fb = s.fb := rfl
@[simp] theorem State.enterHalted_key (s : State) (f : FaultRecord) : (s.enterHalted f).key = s.key := rfl
@[simp] theorem State.enterHalted_status (s : State) (f : FaultRecord) : (s.enterHalted f).status = .halted f := rfl
@[simp] theorem State.enterHalted_rand (s : State) (f : FaultRecord) : (s.enterHalted f).port.rand = s.port.rand := rfl
@[simp] theorem State.enterHalted_draws (s : State) (f : FaultRecord) : (s.enterHalted f).port.draws = s.port.draws := rfl
@[simp] theorem State.enterHalted_report (s : State) (f : FaultRecord) : (s.enterHalted f).port.report = some (.fatal f) := rfl
@[simp] theorem State.enterHalted_getV (s : State) (f : FaultRecord) (x : Reg) : (s.enterHalted f).getV x = s.getV x := rfl

/-! ### Registers -/

/-- R10: a write of V[x] is read back from V[x] alone. -/
@[simp] theorem State.setV_getV (s : State) (x : Reg) (b : Byte) (r : Reg) :
    (s.setV x b).getV r = if r = x then b else s.getV r := by
  unfold State.getV State.setV
  by_cases h : r = x
  · subst h; simp
  · have : x.val ≠ r.val := fun e => h (Fin.ext e.symm)
    simp [h, this]

@[simp] theorem State.withV_getV (s : State) (v : Vector Byte 16) (r : Reg) : (s.withV v).getV r = v[r] := rfl

/-- The sixteen registers determine the register file. -/
theorem State.v_ext {s t : State} (h : ∀ r, t.getV r = s.getV r) : t.v = s.v := by
  refine Vector.ext fun k hk => ?_
  exact h ⟨k, hk⟩

/-! ### The advance of PC -/

/-- R80: the advance is a write of PC. -/
@[simp] theorem State.advancePc_eq (s : State) : s.advancePc = s.setPc (s.pc + 2) := rfl

end Sys2Proof.Machine
end

