-- ==== Sys2Proof/Laws/Display.lean ====
section
/-! SUPPORT. The framebuffer cell by cell: what clearing and flipping leave in every cell, and what one row and a whole
sprite of a draw do to the drawing (44_display.md rules R160 and R161). -/

namespace Sys2Proof.Machine

/-- R160: every cell of the clear framebuffer is unlit. -/
@[simp] theorem Framebuffer.clear_cell (r : Fin 32) (c : Fin 64) : Framebuffer.clear.cell r c = false := by
  simp [Framebuffer.clear, Framebuffer.cell]

/-- A flip changes its own cell alone. -/
@[simp] theorem Framebuffer.flip_cell (fb : Framebuffer) (py : Fin 32) (px : Fin 64) (r : Fin 32) (c : Fin 64) :
    (fb.flip py px).cell r c = if r = py ∧ c = px then !fb.cell r c else fb.cell r c := by
  unfold Framebuffer.flip Framebuffer.cell
  by_cases hr : r = py
  · subst hr
    by_cases hc : c = px
    · subst hc; simp
    · have : px.val ≠ c.val := fun e => hc (Fin.ext e.symm)
      simp [hc, this]
  · have : py.val ≠ r.val := fun e => hr (Fin.ext e.symm)
    simp [hr, this]

/-- Framebuffers with the same cells are equal. -/
theorem Framebuffer.ext {fb fb' : Framebuffer} (h : ∀ r c, fb.cell r c = fb'.cell r c) : fb = fb' := by
  refine Vector.ext fun r hr => Vector.ext fun c hc => ?_
  exact h ⟨r, hr⟩ ⟨c, hc⟩

/-- R161: one lit bit flips its cell, and notes a collision where the cell was lit. -/
theorem Drawing.pixel_cell (px : Fin 64) (py : Fin 32) (d : Drawing) (r : Fin 32) (c : Fin 64) :
    (d.pixel px py).1.cell r c = if r = py ∧ c = px then !d.1.cell r c else d.1.cell r c :=
  Framebuffer.flip_cell d.1 py px r c

theorem Drawing.pixel_collided (px : Fin 64) (py : Fin 32) (d : Drawing) :
    (d.pixel px py).2 = (d.2 || d.1.cell py px) := rfl

/-- R161: within one sprite row, two columns never land on one cell. -/
theorem pixelCol_injective {cx c c' : Nat} (hc : c < 8) (hc' : c' < 8) (h : pixelCol cx c = pixelCol cx c') :
    c = c' := by
  have := congrArg Fin.val h
  simp only [pixelCol] at this
  omega

/-- R161: within one sprite, two rows never land on one screen row. -/
theorem pixelRow_injective {cy r r' : Nat} (hr : r < 16) (hr' : r' < 16) (h : pixelRow cy r = pixelRow cy r') :
    r = r' := by
  have := congrArg Fin.val h
  simp only [pixelRow] at this
  omega

/-- R161, one sprite row up to column `m`: a cell of its screen row flips exactly where a lit bit lands on it, and a
collision is noted exactly where one of those cells was lit. -/
theorem Drawing.row_spec (row : Byte) (cx : Nat) (py : Fin 32) (m : Nat) (hm : m ≤ 8) (d : Drawing) :
    let d' := (List.range m).foldl (fun d c => if spriteBit row c then d.pixel (pixelCol cx c) py else d) d
    (∀ r c, d'.1.cell r c =
      (d.1.cell r c ^^ decide (r = py ∧ ∃ j, j < m ∧ spriteBit row j = true ∧ c = pixelCol cx j))) ∧
    (d'.2 = (d.2 || decide (∃ j, j < m ∧ spriteBit row j = true ∧ d.1.cell py (pixelCol cx j) = true))) := by
  induction m with
  | zero => simp
  | succ m ih =>
    obtain ⟨h1, h2⟩ := ih (by omega)
    simp only [List.range_succ, List.foldl_append, List.foldl_cons, List.foldl_nil]
    generalize (List.range m).foldl (fun d c => if spriteBit row c then Drawing.pixel (pixelCol cx c) py d else d) d = e
      at h1 h2
    by_cases hb : spriteBit row m = true
    · simp only [if_pos hb]
      constructor
      · intro r c
        rw [Drawing.pixel_cell, h1]
        by_cases hr : r = py
        · by_cases hc : c = pixelCol cx m
          · have : ¬ ∃ j, j < m ∧ spriteBit row j = true ∧ c = pixelCol cx j := by
              rintro ⟨j, hj, _, hcj⟩
              have := pixelCol_injective (by omega) (by omega) (hc ▸ hcj)
              omega
            have h3 : ∃ j, j < m+1 ∧ spriteBit row j = true ∧ c = pixelCol cx j := ⟨m, by omega, hb, hc⟩
            rw [if_pos ⟨hr, hc⟩, decide_eq_false (fun h => this h.2), decide_eq_true ⟨hr, h3⟩]; simp
          · rw [if_neg (by tauto)]
            congr 2
            apply propext
            constructor
            · rintro ⟨a, j, hj, h⟩; exact ⟨a, j, by omega, h⟩
            · rintro ⟨a, j, hj, h⟩
              refine ⟨a, j, ?_, h⟩
              rcases Nat.lt_succ_iff_lt_or_eq.mp hj with h' | h'
              · exact h'
              · subst h'; exact absurd h.2 hc
        · rw [if_neg (by tauto), decide_eq_false (by tauto), decide_eq_false (by tauto)]
      · rw [Drawing.pixel_collided, h2, h1]
        have : ¬ ∃ j, j < m ∧ spriteBit row j = true ∧ pixelCol cx m = pixelCol cx j := by
              rintro ⟨j, hj, _, hcj⟩
              have := pixelCol_injective (by omega) (by omega) hcj
              omega
        have hf : ¬ (py = py ∧ ∃ j, j < m ∧ spriteBit row j = true ∧ pixelCol cx m = pixelCol cx j) :=
          fun h => this h.2
        rw [decide_eq_false hf, Bool.xor_false, Bool.or_assoc]
        congr 1
        rw [Bool.eq_iff_iff]
        simp only [Bool.or_eq_true, decide_eq_true_eq]
        constructor
        · rintro (⟨j, hj, h⟩ | h)
          · exact ⟨j, by omega, h⟩
          · exact ⟨m, by omega, hb, h⟩
        · rintro ⟨j, hj, h⟩
          rcases Nat.lt_succ_iff_lt_or_eq.mp hj with h' | h'
          · exact .inl ⟨j, h', h⟩
          · subst h'; exact .inr h.2
    · have hex : ∀ P : Nat → Prop,
          (∃ j, j < m+1 ∧ spriteBit row j = true ∧ P j) ↔ (∃ j, j < m ∧ spriteBit row j = true ∧ P j) := by
        intro P
        constructor
        · rintro ⟨j, hj, h⟩
          rcases Nat.lt_succ_iff_lt_or_eq.mp hj with h' | h'
          · exact ⟨j, h', h⟩
          · subst h'; exact absurd h.1 hb
        · rintro ⟨j, hj, h⟩; exact ⟨j, by omega, h⟩
      rw [if_neg hb]
      constructor
      · intro r c; rw [h1]; simp only [hex]
      · rw [h2]; simp only [hex]

/-- R161: a lit bit of the rows, the first of which is row `r0` of the sprite, lands on cell (r, c). -/
def Drawing.Lands (cx cy r0 : Nat) (rows : List Byte) (r : Fin 32) (c : Fin 64) : Prop :=
  ∃ k j, k < rows.length ∧ j < 8 ∧ spriteBit (rows.getD k 0) j = true ∧ r = pixelRow cy (r0 + k) ∧ c = pixelCol cx j

/-- R161: what drawing the rows does to every cell, and to the collision. -/
theorem Drawing.sprite_spec (cx cy : Nat) (rows : List Byte) :
    ∀ r0 : Nat, r0 + rows.length ≤ 16 → ∀ d : Drawing,
    let d' := Drawing.sprite cx cy r0 rows d
    (∀ r c, Drawing.Lands cx cy r0 rows r c → d'.1.cell r c = !d.1.cell r c) ∧
    (∀ r c, ¬ Drawing.Lands cx cy r0 rows r c → d'.1.cell r c = d.1.cell r c) ∧
    (d'.2 = true ↔ d.2 = true ∨ ∃ r c, Drawing.Lands cx cy r0 rows r c ∧ d.1.cell r c = true) := by
  induction rows with
  | nil => intro r0 h d; simp [Drawing.sprite, Drawing.Lands]
  | cons row rows ih =>
    intro r0 hr d
    simp only [List.length_cons] at hr
    rw [Drawing.sprite]
    obtain ⟨i1, i2, i3⟩ := ih (r0+1) (by omega) (Drawing.row row cx (pixelRow cy r0) d)
    obtain ⟨g1, g2⟩ := Drawing.row_spec row cx (pixelRow cy r0) 8 (by omega) d
    change ∀ r c, (Drawing.row row cx (pixelRow cy r0) d).1.cell r c = _ at g1
    change (Drawing.row row cx (pixelRow cy r0) d).2 = _ at g2
    have hl : ∀ r c, Drawing.Lands cx cy r0 (row :: rows) r c ↔
        (r = pixelRow cy r0 ∧ ∃ j, j < 8 ∧ spriteBit row j = true ∧ c = pixelCol cx j) ∨
          Drawing.Lands cx cy (r0+1) rows r c := by
      intro r c
      constructor
      · rintro ⟨k, j, hk, hj, hb, h1, h2⟩
        cases k with
        | zero => exact .inl ⟨h1, j, hj, hb, h2⟩
        | succ k => exact .inr ⟨k, j, by simpa using hk, hj, by simpa using hb, by rw [h1]; congr 1; omega, h2⟩
      · rintro (⟨h1, j, hj, hb, h2⟩ | ⟨k, j, hk, hj, hb, h1, h2⟩)
        · exact ⟨0, j, by simp, hj, hb, h1, h2⟩
        · exact ⟨k+1, j, by simpa using hk, hj, by simpa using hb, by rw [h1]; congr 1; omega, h2⟩
    have hdis : ∀ r c, r = pixelRow cy r0 → ¬ Drawing.Lands cx cy (r0+1) rows r c := by
      rintro r c h1 ⟨k, j, hk, hj, hb, h2, _⟩
      have := pixelRow_injective (by omega) (by omega) (h1 ▸ h2)
      omega
    refine ⟨?_, ?_, ?_⟩
    · intro r c h
      rcases (hl r c).mp h with h' | h'
      · rw [i2 r c (hdis r c h'.1), g1, decide_eq_true h']; simp
      · rw [i1 r c h', g1, decide_eq_false, Bool.xor_false]
        intro hh; exact hdis r c hh.1 h'
    · intro r c h
      rw [hl] at h
      rw [i2 r c (fun h' => h (.inr h')), g1, decide_eq_false (fun h' => h (.inl h')), Bool.xor_false]
    · rw [i3, g2, Bool.or_eq_true, decide_eq_true_eq, or_assoc]
      apply or_congr Iff.rfl
      constructor
      · rintro (⟨j, hj, hb, h⟩ | ⟨r, c, h, h'⟩)
        · exact ⟨_, _, (hl _ _).mpr (.inl ⟨rfl, j, hj, hb, rfl⟩), h⟩
        · refine ⟨r, c, (hl _ _).mpr (.inr h), ?_⟩
          rw [g1, decide_eq_false, Bool.xor_false] at h'
          · exact h'
          · intro hh; exact hdis r c hh.1 h
      · rintro ⟨r, c, h, h'⟩
        rcases (hl _ _).mp h with ⟨h1, j, hj, hb, h2⟩ | h2
        · subst h1 h2; exact .inl ⟨j, hj, hb, h'⟩
        · refine .inr ⟨r, c, h2, ?_⟩
          rw [g1, decide_eq_false, Bool.xor_false]
          · exact h'
          · intro hh; exact hdis r c hh.1 h2

/-- R161: a draw writes the framebuffer and VF, the flag last. -/
@[simp] theorem State.drawSprite_getV (cx cy : Byte) (rows : List Byte) (s : State) (r : Reg) :
    (s.drawSprite cx cy rows).getV r =
      if r = regF then flagByte (Drawing.sprite cx.toNat cy.toNat 0 rows (s.fb, false)).2 else s.getV r := by
  simp [State.drawSprite]

@[simp] theorem State.drawSprite_fb (cx cy : Byte) (rows : List Byte) (s : State) :
    (s.drawSprite cx cy rows).fb = (Drawing.sprite cx.toNat cy.toNat 0 rows (s.fb, false)).1 := rfl

end Sys2Proof.Machine
end

