-- ==== Sys2Proof/Laws/Memory.lean ====
section
/-! SUPPORT. The laws of memory: a read after a write, the canonical form, and that in canonical form memories that
read alike are equal data. -/

namespace Sys2Proof.Machine

/-- Below every listed address, memory reads as unlisted. -/
theorem Memory.read_below {lo a : Nat} {m : Memory} (h : Memory.wfFrom lo m = true) (ha : a < lo) :
    Memory.read m a = unlisted a := by
  induction m generalizing lo with
  | nil => rfl
  | cons c m ih =>
    simp only [Memory.wfFrom, Bool.and_eq_true, decide_eq_true_eq] at h
    rw [Memory.read, if_neg (by omega)]
    exact ih h.2 (by omega)

/-- The form is kept when the lower bound falls. -/
theorem Memory.wfFrom_mono {lo lo' : Nat} {m : Memory} (h : Memory.wfFrom lo m = true) (hl : lo' ≤ lo) :
    Memory.wfFrom lo' m = true := by
  cases m with
  | nil => rfl
  | cons c m =>
    simp only [Memory.wfFrom, Bool.and_eq_true, decide_eq_true_eq] at h ⊢
    exact ⟨⟨⟨by omega, h.1.1.2⟩, h.1.2⟩, h.2⟩

/-- A cell put before higher ones is read at its own address, and nothing else changes. -/
theorem Memory.read_cons {a : Nat} {v : Byte} {m : Memory} (h : Memory.wfFrom (a + 1) m = true) (b : Nat) :
    Memory.read (Memory.cons a v m) b = if b = a then v else Memory.read m b := by
  unfold Memory.cons
  split
  · rename_i hv
    split
    · rename_i hb; rw [hb, Memory.read_below h (by omega), hv]
    · rfl
  · rfl

/-- A cell put before higher ones keeps the form. -/
theorem Memory.wfFrom_cons {lo a : Nat} {v : Byte} {m : Memory} (hl : lo ≤ a) (ha : a < Config.memSize)
    (h : Memory.wfFrom (a + 1) m = true) : Memory.wfFrom lo (Memory.cons a v m) = true := by
  unfold Memory.cons
  split
  · exact Memory.wfFrom_mono h (by omega)
  · rename_i hv
    simp only [Memory.wfFrom, Bool.and_eq_true, decide_eq_true_eq]
    exact ⟨⟨⟨hl, ha⟩, hv⟩, h⟩

/-- Inserting keeps the form. -/
theorem Memory.wfFrom_insert {lo a : Nat} {v : Byte} {m : Memory} (h : Memory.wfFrom lo m = true) (hl : lo ≤ a)
    (ha : a < Config.memSize) : Memory.wfFrom lo (Memory.insert a v m) = true := by
  induction m generalizing lo with
  | nil => exact Memory.wfFrom_cons hl ha rfl
  | cons c m ih =>
    obtain ⟨b, w⟩ := c
    have h' := h
    simp only [Memory.wfFrom, Bool.and_eq_true, decide_eq_true_eq] at h
    unfold Memory.insert
    split
    · refine Memory.wfFrom_cons hl ha ?_
      simp only [Memory.wfFrom, Bool.and_eq_true, decide_eq_true_eq]
      exact ⟨⟨⟨by omega, h.1.1.2⟩, h.1.2⟩, h.2⟩
    · split
      · rename_i hb; subst hb; exact Memory.wfFrom_cons hl ha h.2
      · simp only [Memory.wfFrom, Bool.and_eq_true, decide_eq_true_eq]
        exact ⟨h.1, ih h.2 (by omega)⟩

/-- An inserted byte is read at its address, and nothing else changes. -/
theorem Memory.read_insert {lo a : Nat} {v : Byte} {m : Memory} (h : Memory.wfFrom lo m = true) (b : Nat) :
    Memory.read (Memory.insert a v m) b = if b = a then v else Memory.read m b := by
  induction m generalizing lo with
  | nil => exact Memory.read_cons rfl b
  | cons c m ih =>
    obtain ⟨d, w⟩ := c
    simp only [Memory.wfFrom, Bool.and_eq_true, decide_eq_true_eq] at h
    unfold Memory.insert
    split
    · refine Memory.read_cons ?_ b
      simp only [Memory.wfFrom, Bool.and_eq_true, decide_eq_true_eq]
      exact ⟨⟨⟨by omega, h.1.1.2⟩, h.1.2⟩, h.2⟩
    · split
      · rename_i hd
        subst hd
        rw [Memory.read_cons h.2, Memory.read]
        split <;> rfl
      · rename_i hda had
        rw [Memory.read, Memory.read, ih h.2]
        by_cases hb : b = d
        · rw [if_pos hb, if_pos hb, if_neg (by omega)]
        · rw [if_neg hb, if_neg hb]

/-- R43: a write keeps the canonical form. -/
theorem Memory.wf_write {m : Memory} (h : m.wf = true) (a : Nat) (v : Byte) : (m.write a v).wf = true := by
  unfold Memory.write
  split
  · exact Memory.wfFrom_insert h (Nat.zero_le _) ‹_›
  · exact h

/-- R50: a byte written is read back, and every other byte is as before. -/
theorem Memory.read_write {m : Memory} (h : m.wf = true) {a : Nat} (ha : a < Config.memSize) (v : Byte) (b : Nat) :
    (m.write a v).read b = if b = a then v else m.read b := by
  unfold Memory.write
  rw [if_pos ha]
  exact Memory.read_insert h b

/-- R47: a write of several bytes keeps the canonical form. -/
theorem Memory.wf_writeAll {m : Memory} (h : m.wf = true) (a : Nat) (vs : List Byte) :
    (m.writeAll a vs).wf = true := by
  induction vs generalizing m a with
  | nil => exact h
  | cons v vs ih => exact ih (Memory.wf_write h a v) (a + 1)

/-- R47: bytes written one after another are read back, and every other byte is as before. -/
theorem Memory.read_writeAll {m : Memory} (h : m.wf = true) (a : Nat) (vs : List Byte)
    (hr : a + vs.length ≤ Config.memSize) (b : Nat) :
    (m.writeAll a vs).read b = if a ≤ b ∧ b < a + vs.length then vs.getD (b - a) 0 else m.read b := by
  induction vs generalizing m a with
  | nil => simp only [Memory.writeAll, List.length_nil, Nat.add_zero]; rw [if_neg (by omega)]
  | cons v vs ih =>
    simp only [List.length_cons] at hr ⊢
    rw [Memory.writeAll, ih (Memory.wf_write h a v) (a + 1) (by omega),
      Memory.read_write h (by omega)]
    by_cases hb : b = a
    · subst hb; rw [if_neg (by omega), if_pos rfl, if_pos (by omega)]; simp
    · by_cases hi : a + 1 ≤ b ∧ b < a + 1 + vs.length
      · rw [if_pos hi, if_pos (by omega)]
        have : b - a = (b - (a + 1)) + 1 := by omega
        rw [this, List.getD_cons_succ]
      · rw [if_neg hi, if_neg hb, if_neg (by omega)]

@[simp] theorem Memory.length_readAll (m : Memory) (a n : Nat) : (m.readAll a n).length = n := by
  induction n generalizing a with
  | zero => rfl
  | succ n ih => simp [Memory.readAll, ih]

/-- R47: the k-th byte read is the one at `a + k`. -/
theorem Memory.getD_readAll (m : Memory) (a n k : Nat) (hk : k < n) : (m.readAll a n).getD k 0 = m.read (a + k) := by
  induction n generalizing a k with
  | zero => omega
  | succ n ih =>
    cases k with
    | zero => rfl
    | succ k =>
      rw [Memory.readAll, List.getD_cons_succ, ih (a + 1) k (by omega)]
      congr 1
      omega

/-- In canonical form, memories that read alike are equal data. -/
theorem Memory.ext_from {lo : Nat} {m m' : Memory} (h : Memory.wfFrom lo m = true) (h' : Memory.wfFrom lo m' = true)
    (hr : ∀ a, m.read a = m'.read a) : m = m' := by
  induction m generalizing lo m' with
  | nil =>
    cases m' with
    | nil => rfl
    | cons c m' =>
      simp only [Memory.wfFrom, Bool.and_eq_true, decide_eq_true_eq] at h'
      have := hr c.1
      rw [Memory.read, Memory.read, if_pos rfl] at this
      exact absurd this.symm h'.1.2
  | cons c m ih =>
    have hc := h
    simp only [Memory.wfFrom, Bool.and_eq_true, decide_eq_true_eq] at h
    cases m' with
    | nil =>
      have := hr c.1
      rw [Memory.read, Memory.read, if_pos rfl] at this
      exact absurd this h.1.2
    | cons d m' =>
      have hd := h'
      simp only [Memory.wfFrom, Bool.and_eq_true, decide_eq_true_eq] at h'
      have hcd : c.1 = d.1 := by
        rcases Nat.lt_trichotomy c.1 d.1 with hlt | heq | hgt
        · have := hr c.1
          rw [Memory.read, if_pos rfl, Memory.read, if_neg (by omega), Memory.read_below h'.2 (by omega)] at this
          exact absurd this h.1.2
        · exact heq
        · have := hr d.1
          rw [Memory.read, if_neg (by omega), Memory.read, if_pos rfl, Memory.read_below h.2 (by omega)] at this
          exact absurd this.symm h'.1.2
      have hv : c.2 = d.2 := by
        have := hr c.1
        rwa [Memory.read, if_pos rfl, Memory.read, if_pos hcd] at this
      have hm : m = m' := by
        refine ih h.2 (hcd ▸ h'.2) fun a => ?_
        rcases Nat.lt_or_ge c.1 a with hlt | hge
        · have := hr a
          rwa [Memory.read, if_neg (by omega), Memory.read, if_neg (by omega)] at this
        · rw [Memory.read_below h.2 (by omega), Memory.read_below h'.2 (by omega)]
      rw [hm, show c = d from Prod.ext hcd hv]

/-- In canonical form, memories that read alike are equal data. -/
theorem Memory.ext {m m' : Memory} (h : m.wf = true) (h' : m'.wf = true) (hr : ∀ a, m.read a = m'.read a) :
    m = m' :=
  Memory.ext_from h h' hr

/-- Reset's memory is in canonical form. -/
theorem reset_mem_wf : State.reset.mem.wf = true := rfl

end Sys2Proof.Machine
end

