-- ==== Sys2Proof/Laws/Ops.lean ====
section
/-! SUPPORT. What each shared operation can do, said once: an end of an instruction, a fatal error, an access of
several bytes, the two write orders of a result and its flag, the operand forms, and the port calls. -/

namespace Sys2Proof.Machine

/-! ### The ends of an instruction -/

theorem State.advanced_eq_next {s t : State} : s.advanced = .next t ↔ t = s.giveReport .advanced := by
  simp [State.advanced, eq_comm]

theorem State.notAdvanced_eq_next {s t : State} : s.notAdvanced = .next t ↔ t = s.giveReport .notAdvanced := by
  simp [State.notAdvanced, eq_comm]

/-- R108: a skip's next state is the state with PC moved by 2 or not at all. -/
theorem State.skipIf_eq (c : Bool) (s : State) :
    State.skipIf c s = .next ((s.setPc (if c then s.pc + 2 else s.pc)).giveReport .advanced) := by
  cases c <;> rfl

theorem State.unknownNoOp_eq (s : State) : s.unknownNoOp = .next (s.giveReport .advanced) := rfl

/-! ### Fatal errors -/

theorem State.raiseFatal_eq (kind : FatalKind) (i : Instr) (bad : Option Nat) (s : State) :
    s.raiseFatal kind i bad = .next (s.enterHalted ⟨kind, s.pc - 2, some (encode i), bad⟩) := rfl

theorem State.raiseFetchFatal_eq (bad : Nat) (s : State) :
    s.raiseFetchFatal bad = .next (s.enterHalted ⟨.fetchOutOfRange, s.pc, none, some bad⟩) := rfl

/-- R81: undoing the advance of PC gives back the address of the instruction. -/
theorem sub_two_of_add_two (w : Word) : w + 2 - 2 = w := by simp

/-- R81, R202: a fatal error in a rule that ran with PC advanced leaves the pre-step state, Halted. -/
theorem State.enterHalted_advancePc (s : State) (f : FaultRecord) :
    s.advancePc.enterHalted f = s.enterHalted f := rfl

/-! ### Accesses of several bytes -/

theorem rangeExists_iff (base n : Nat) : rangeExists base n = true ↔ n = 0 ∨ base + n ≤ Config.memSize := by
  simp [rangeExists]

theorem rangeExists_eq_false (base n : Nat) : rangeExists base n = false ↔ n ≠ 0 ∧ Config.memSize < base + n := by
  rw [Bool.eq_false_iff, Ne, rangeExists_iff]
  omega

/-- R43: a store either writes all of its bytes or raises DATA_OUT_OF_RANGE and writes none. -/
theorem State.storeAll_cases (i : Instr) (base : Nat) (bytes : List Byte) (s : State) :
    (rangeExists base bytes.length = true ∧
      s.storeAll i base bytes = .next ((s.setMem (s.mem.writeAll base bytes)).giveReport .advanced)) ∨
    (rangeExists base bytes.length = false ∧
      s.storeAll i base bytes =
        .next (s.enterHalted ⟨.dataOutOfRange, s.pc - 2, some (encode i), some (firstBadAddr base)⟩)) := by
  unfold State.storeAll
  cases h : rangeExists base bytes.length
  · exact .inr ⟨rfl, rfl⟩
  · exact .inl ⟨rfl, rfl⟩

/-- R43: a load either uses all of its bytes or raises DATA_OUT_OF_RANGE and does nothing. -/
theorem State.loadAll_cases (i : Instr) (base n : Nat) (use : List Byte → State → State) (s : State) :
    (rangeExists base n = true ∧
      s.loadAll i base n use = .next ((use (s.mem.readAll base n) s).giveReport .advanced)) ∨
    (rangeExists base n = false ∧
      s.loadAll i base n use =
        .next (s.enterHalted ⟨.dataOutOfRange, s.pc - 2, some (encode i), some (firstBadAddr base)⟩)) := by
  unfold State.loadAll
  cases h : rangeExists base n
  · exact .inr ⟨rfl, rfl⟩
  · exact .inl ⟨rfl, rfl⟩

/-- R43: an address that exists makes 0x1000 the first one out of range. -/
theorem firstBadAddr_of_lt {base : Nat} (h : base < Config.memSize) : firstBadAddr base = 0x1000 := by
  simp only [firstBadAddr, Config.memSize] at *; omega

/-! ### The flag orders -/

@[simp] theorem State.resultThenFlag_getV (x : Reg) (result flag : Byte) (s : State) (r : Reg) :
    (s.resultThenFlag x result flag).getV r = if r = regF then flag else if r = x then result else s.getV r := by
  simp [State.resultThenFlag]

@[simp] theorem State.flagThenResult_getV (x : Reg) (flag result : Byte) (s : State) (r : Reg) :
    (s.flagThenResult x flag result).getV r = if r = x then result else if r = regF then flag else s.getV r := by
  simp [State.flagThenResult]

/-- Both orders write the register file alone. -/
theorem State.resultThenFlag_eq_withV (x : Reg) (result flag : Byte) (s : State) :
    s.resultThenFlag x result flag = s.withV (s.resultThenFlag x result flag).v := rfl

theorem State.flagThenResult_eq_withV (x : Reg) (flag result : Byte) (s : State) :
    s.flagThenResult x flag result = s.withV (s.flagThenResult x flag result).v := rfl

/-! ### Operand forms -/

@[simp] theorem zext16_toNat (nnn : Addr12) : (zext16 nnn).toNat = nnn.toNat := by
  have := nnn.isLt
  simp only [zext16, BitVec.toNat_setWidth]
  omega

/-- R107: the sum is not wrapped. -/
theorem offsetTarget_toNat (nnn : Addr12) (v0 : Byte) : (offsetTarget nnn v0).toNat = nnn.toNat + v0.toNat := by
  have := nnn.isLt
  have := v0.isLt
  simp only [offsetTarget, zext16, BitVec.toNat_add, BitVec.toNat_setWidth]
  omega

/-- R141: the sum modulo 0x1000, which 16 bits hold. -/
theorem indexSum_toNat (i0 : Word) (vx : Byte) : (indexSum i0 vx).toNat = (i0.toNat + vx.toNat) % 0x1000 := by
  simp only [indexSum, BitVec.toNat_ofNat]
  omega

/-- R142, R7: with a legal font base, the address of a glyph is not wrapped. -/
theorem glyphAddress_toNat {f : Config.Font} (h : f.legal = true) (vx : Byte) :
    (glyphAddress f vx).toNat = f.base + 5 * vx.toNat := by
  have := vx.isLt
  have hb : f.base + 80 ≤ 0x200 := by
    simp [Config.Font.legal, Config.fontSize, Config.programBase] at h
    omega
  simp only [glyphAddress, BitVec.toNat_ofNat]
  omega

/-- R7: the font the machine takes is a legal one. -/
theorem font_legal : font.legal = true := by decide

@[simp] theorem State.length_regsThrough (s : State) (x : Reg) : (s.regsThrough x).length = x.val + 1 := by
  have := x.isLt
  simp only [State.regsThrough, List.length_take, Vector.length_toList]
  omega

/-- R144: the k-th value of V0..Vx is Vk. -/
theorem State.getD_regsThrough (s : State) (x k : Reg) (h : k.val ≤ x.val) :
    (s.regsThrough x).getD k.val 0 = s.getV k := by
  have hk := k.isLt
  rw [List.getD_eq_getElem _ _ (by simp; omega)]
  simp [State.regsThrough, State.getV]

/-- R145: V0..Vx take the bytes in order, and no other register changes. -/
@[simp] theorem State.setRegsThrough_getV (x : Reg) (bytes : List Byte) (s : State) (r : Reg) :
    (s.setRegsThrough x bytes).getV r = if r.val ≤ x.val then bytes.getD r.val 0 else s.getV r := by
  simp [State.setRegsThrough]

@[simp] theorem length_bcdDigits (b : Byte) : (bcdDigits b).length = 3 := rfl

/-- R183: the key found is down and every lower-numbered one is up. -/
theorem State.lowestKeyDown_eq_some {s : State} {k : Nat} (h : s.lowestKeyDown = some k) :
    ∃ hk : k < 16, s.key[k] = true ∧ ∀ j (hj : j < k), s.key[j] = false := by
  obtain ⟨hk, hd, hl⟩ := List.findIdx?_eq_some_iff_getElem.mp h
  have hk' : k < 16 := by simpa using hk
  refine ⟨hk', by simpa using hd, fun j hj => ?_⟩
  have := hl j hj
  simpa using this

/-- R183: no key is found exactly when none is down. -/
theorem State.lowestKeyDown_eq_none {s : State} : s.lowestKeyDown = none ↔ ∀ k : Fin 16, s.key[k] = false := by
  unfold State.lowestKeyDown
  rw [List.findIdx?_eq_none_iff]
  constructor
  · intro h k
    have := h s.key[k] (by simp)
    simpa using this
  · intro h b hb
    obtain ⟨k, hk, rfl⟩ := List.mem_iff_getElem.mp hb
    have := h ⟨k, by simpa using hk⟩
    simpa using this

/-- R131, R212: a draw given with the Step call is the draw; one not given is the free draw. -/
@[simp] theorem State.draw_setSupply_some (s : State) (b : Byte) (n : Nat) : (s.setSupply (some b) n).draw = b := rfl

@[simp] theorem State.draw_setSupply_none (s : State) (n : Nat) :
    (s.setSupply none n).draw = Config.freeRand n := rfl

/-- A used draw leaves none, and counts one. -/
@[simp] theorem State.consumeDraw_eq (s : State) : s.consumeDraw = s.setSupply none (s.port.draws + 1) := rfl

/-! ### Fetch -/

/-- R44: a fetch is out of range exactly when PC + 1 lies beyond 0xFFF. -/
theorem fetchBadAddr_eq_none {pc : Word} : fetchBadAddr pc = none ↔ pc.toNat + 1 ≤ 0xFFF := by
  unfold fetchBadAddr
  split <;> simp <;> omega

/-- R44: the address reported is 0x1000 for PC = 0xFFF and PC itself above. -/
theorem fetchBadAddr_eq_some {pc : Word} (h : pc.toNat + 1 > 0xFFF) : fetchBadAddr pc = some (max pc.toNat 0x1000) := by
  unfold fetchBadAddr
  rw [if_pos h]
  congr 1
  split <;> omega

/-! ### Ports -/

theorem State.whileRunning_running {s : State} (call : State → State) (h : s.status = .running) :
    s.whileRunning call = call s := by
  simp [State.whileRunning, h]

theorem State.whileRunning_halted {s : State} {f : FaultRecord} (call : State → State) (h : s.status = .halted f) :
    s.whileRunning call = s := by
  simp [State.whileRunning, h]

end Sys2Proof.Machine
end

