-- ==== Sys2Proof/Laws/PerInstr.lean ====
section
/-! SUPPORT. The statement made of each instruction as syntax: its word is one that 30_encoding.md rule R65 says
selects an instruction, so no pattern of rule R63 falls among the unknown words of rule R66. -/

namespace Sys2Proof.Laws.EncodesSelected

/-- The word of the instruction is selected by R65. -/
def Statement (i : Instr) : Prop := selects (encode i) = true

/-- In the families R65 lists without a nested discriminant, every word is selected. -/
theorem packNNN_selected (op : BitVec 4) (nnn : Addr12)
    (h : op ∈ [0x1#4, 0x2#4, 0xA#4, 0xB#4]) : selects (packNNN op nnn) = true := by
  simp only [List.mem_cons, List.not_mem_nil, or_false] at h
  rcases h with rfl | rfl | rfl | rfl <;> simp [selects, nibbleAt_three, fieldOp_packNNN]

/-- The same of the families with a register and an immediate. -/
theorem packXNN_selected (op : BitVec 4) (x : Reg) (nn : Byte)
    (h : op ∈ [0x3#4, 0x4#4, 0x6#4, 0x7#4, 0xC#4]) : selects (packXNN op x nn) = true := by
  simp only [List.mem_cons, List.not_mem_nil, or_false] at h
  rcases h with rfl | rfl | rfl | rfl | rfl <;> simp [selects, nibbleAt_three, fieldOp_packXNN]

/-- Family 8: the listed sub-operations. -/
theorem registerOp_selected (x y : Reg) (n : BitVec 4) (h : n.toNat ∈ registerOps) :
    selects (packXYN 0x8#4 x y n) = true := by
  simpa [selects, nibbleAt_three, nibbleAt_zero, fieldOp_packXYN, fieldN_packXYN] using h

/-- Families 5 and 9: the low nibble is 0. -/
theorem skip_selected (op : BitVec 4) (x y : Reg) (h : op ∈ [0x5#4, 0x9#4]) :
    selects (packXYN op x y 0x0#4) = true := by
  simp only [List.mem_cons, List.not_mem_nil, or_false] at h
  rcases h with rfl | rfl <;> simp [selects, nibbleAt_three, nibbleAt_zero, fieldOp_packXYN, fieldN_packXYN]

/-- Family E: the listed low bytes. -/
theorem keyOp_selected (x : Reg) (nn : Byte) (h : nn.toNat ∈ keyOps) : selects (packXNN 0xE#4 x nn) = true := by
  simpa [selects, nibbleAt_three, toNat_mod_256, fieldOp_packXNN, fieldNN_packXNN] using h

/-- Family F: the listed low bytes. -/
theorem miscOp_selected (x : Reg) (nn : Byte) (h : nn.toNat ∈ miscOps) : selects (packXNN 0xF#4 x nn) = true := by
  simpa [selects, nibbleAt_three, toNat_mod_256, fieldOp_packXNN, fieldNN_packXNN] using h

theorem cls : Statement .cls := by unfold Statement; decide
theorem ret : Statement .ret := by unfold Statement; decide
theorem jp (nnn : Addr12) : Statement (.jp nnn) := packNNN_selected _ _ (by decide)
theorem call (nnn : Addr12) : Statement (.call nnn) := packNNN_selected _ _ (by decide)
theorem seImm (x : Reg) (nn : Byte) : Statement (.seImm x nn) := packXNN_selected _ _ _ (by decide)
theorem sneImm (x : Reg) (nn : Byte) : Statement (.sneImm x nn) := packXNN_selected _ _ _ (by decide)
theorem seReg (x y : Reg) : Statement (.seReg x y) := skip_selected _ _ _ (by decide)
theorem ldImm (x : Reg) (nn : Byte) : Statement (.ldImm x nn) := packXNN_selected _ _ _ (by decide)
theorem addImm (x : Reg) (nn : Byte) : Statement (.addImm x nn) := packXNN_selected _ _ _ (by decide)
theorem ldReg (x y : Reg) : Statement (.ldReg x y) := registerOp_selected _ _ _ (by decide)
theorem orReg (x y : Reg) : Statement (.orReg x y) := registerOp_selected _ _ _ (by decide)
theorem andReg (x y : Reg) : Statement (.andReg x y) := registerOp_selected _ _ _ (by decide)
theorem xorReg (x y : Reg) : Statement (.xorReg x y) := registerOp_selected _ _ _ (by decide)
theorem addReg (x y : Reg) : Statement (.addReg x y) := registerOp_selected _ _ _ (by decide)
theorem subReg (x y : Reg) : Statement (.subReg x y) := registerOp_selected _ _ _ (by decide)
theorem shr (x y : Reg) : Statement (.shr x y) := registerOp_selected _ _ _ (by decide)
theorem subnReg (x y : Reg) : Statement (.subnReg x y) := registerOp_selected _ _ _ (by decide)
theorem shl (x y : Reg) : Statement (.shl x y) := registerOp_selected _ _ _ (by decide)
theorem sneReg (x y : Reg) : Statement (.sneReg x y) := skip_selected _ _ _ (by decide)
theorem ldI (nnn : Addr12) : Statement (.ldI nnn) := packNNN_selected _ _ (by decide)
theorem jpV0 (nnn : Addr12) : Statement (.jpV0 nnn) := packNNN_selected _ _ (by decide)
theorem rnd (x : Reg) (nn : Byte) : Statement (.rnd x nn) := packXNN_selected _ _ _ (by decide)
theorem drw (x y : Reg) (n : Fin 16) : Statement (.drw x y n) := by
  simp [Statement, encode, selects, nibbleAt_three, fieldOp_packXYN]
theorem skp (x : Reg) : Statement (.skp x) := keyOp_selected _ _ (by decide)
theorem sknp (x : Reg) : Statement (.sknp x) := keyOp_selected _ _ (by decide)
theorem ldVxDt (x : Reg) : Statement (.ldVxDt x) := miscOp_selected _ _ (by decide)
theorem ldVxK (x : Reg) : Statement (.ldVxK x) := miscOp_selected _ _ (by decide)
theorem ldDtVx (x : Reg) : Statement (.ldDtVx x) := miscOp_selected _ _ (by decide)
theorem ldStVx (x : Reg) : Statement (.ldStVx x) := miscOp_selected _ _ (by decide)
theorem addI (x : Reg) : Statement (.addI x) := miscOp_selected _ _ (by decide)
theorem ldF (x : Reg) : Statement (.ldF x) := miscOp_selected _ _ (by decide)
theorem ldB (x : Reg) : Statement (.ldB x) := miscOp_selected _ _ (by decide)
theorem storeRegs (x : Reg) : Statement (.storeRegs x) := miscOp_selected _ _ (by decide)
theorem loadRegs (x : Reg) : Statement (.loadRegs x) := miscOp_selected _ _ (by decide)

end Sys2Proof.Laws.EncodesSelected
end

