-- ==== Sys2Proof/Tests/Slice0.lean ====
section
/-! SUPPORT. The model's own tests. Every expected value is taken from 95_test_vectors.md (the vector's id stands beside
it) or from the example of the rule named; the words are written out from 30_encoding.md rule R63. First the smoke test
of WellFormed, then the decoding of every constructor, then one step of each instruction, then the ports, then for every
obligation with hypotheses a state that meets them. -/

namespace Sys2Proof.Tests

open Sys2Proof.Machine

/-! ### Helpers -/

/-- The reset state with some registers set. -/
def withRegs (rs : List (Reg × Byte)) : State := rs.foldl (fun s r => s.setV r.1 r.2) State.reset

/-- With bytes in memory from `a` on. -/
def withBytes (a : Nat) (bytes : List Byte) (s : State) : State := s.setMem (s.mem.writeAll a bytes)

/-- The state after one step of the word `w`. -/
def ran (w : Nat) (s : State) : State :=
  match step (s.withFetchWord 16 w) with
  | .next t => t
  | .fault _ => s
  | .refused _ => s

/-- After one step of the word `w`: PC, and that the step reported Advanced. -/
def pcOf (w : Nat) (s : State) : Nat × Bool := ((ran w s).pc.toNat, (ran w s).port.report = some .advanced)

/-- After one step of the word `w`: a register, and VF. -/
def regAndFlag (x : Reg) (w : Nat) (s : State) : Byte × Byte := ((ran w s).getV x, (ran w s).getV regF)

/-- The keys that are down. -/
def keysDown (ks : List (Fin 16)) (s : State) : State := ks.foldl (fun s k => s.keyDown k) s

/-- A Halted core: P4's record (95_test_vectors.md). -/
def haltedCore : State := (State.reset.setStack (Vector.replicate 16 0x202) 16).enterHalted
  ⟨.stackOverflow, 0x200, some 0x2200, none⟩

/-! ### WellFormed refuses what is ill formed -/

/-- FD8 to FD11: words one fixed nibble away from an instruction are not selected. -/
theorem test_ill_formed_words_refused :
    selects 0x00E1 = false ∧ selects 0x0123 = false ∧ selects 0x5121 = false ∧ selects 0x812F = false ∧
    selects 0x8128 = false ∧ selects 0x9121 = false ∧ selects 0xE1FF = false ∧ selects 0xF1FF = false ∧
    selects 0xF100 = false := by decide

/-- RS2, RS3: an image of 0xE00 bytes fits and one of 0xE01 does not. -/
theorem test_over_long_image_refused :
    imageFits (List.replicate 0xE00 0) = true ∧ imageFits (List.replicate 0xE01 0) = false := by
  simp only [imageFits, List.length_replicate]
  decide

/-- R7: FONT_BASE + 80 <= 0x200, and 80 bytes. -/
theorem test_font_parameter_legal :
    font.legal = true ∧ Config.Font.legal ⟨0x1B0, defaultGlyphs⟩ = true ∧
    Config.Font.legal ⟨0x1B1, defaultGlyphs⟩ = false ∧ Config.Font.legal ⟨0x000, []⟩ = false := by decide

/-! ### Decoding: every constructor from a word written out from R63 -/

theorem test_decode_control :
    decode 0x00EE = .ok .ret ∧ decode 0x1234 = .ok (.jp 0x234) ∧ decode 0x2210 = .ok (.call 0x210) ∧
    decode 0x3305 = .ok (.seImm 0x3 0x05) ∧ decode 0x4306 = .ok (.sneImm 0x3 0x06) ∧
    decode 0x5120 = .ok (.seReg 0x1 0x2) ∧ decode 0x9120 = .ok (.sneReg 0x1 0x2) ∧
    decode 0xB300 = .ok (.jpV0 0x300) := by decide

theorem test_decode_alu :
    decode 0x6A3C = .ok (.ldImm 0xA 0x3C) ∧ decode 0x7A05 = .ok (.addImm 0xA 0x05) ∧
    decode 0x8120 = .ok (.ldReg 0x1 0x2) ∧ decode 0x8121 = .ok (.orReg 0x1 0x2) ∧
    decode 0x8122 = .ok (.andReg 0x1 0x2) ∧ decode 0x8123 = .ok (.xorReg 0x1 0x2) ∧
    decode 0x8124 = .ok (.addReg 0x1 0x2) ∧ decode 0x8125 = .ok (.subReg 0x1 0x2) ∧
    decode 0x8126 = .ok (.shr 0x1 0x2) ∧ decode 0x8127 = .ok (.subnReg 0x1 0x2) ∧
    decode 0x812E = .ok (.shl 0x1 0x2) ∧ decode 0xC30F = .ok (.rnd 0x3 0x0F) := by decide

theorem test_decode_index_memory_display :
    decode 0xA300 = .ok (.ldI 0x300) ∧ decode 0xF21E = .ok (.addI 0x2) ∧ decode 0xF229 = .ok (.ldF 0x2) ∧
    decode 0xF533 = .ok (.ldB 0x5) ∧ decode 0xF155 = .ok (.storeRegs 0x1) ∧ decode 0xF265 = .ok (.loadRegs 0x2) ∧
    decode 0x00E0 = .ok .cls ∧ decode 0xD015 = .ok (.drw 0x0 0x1 0x5) := by decide

theorem test_decode_keys_timers :
    decode 0xE49E = .ok (.skp 0x4) ∧ decode 0xE4A1 = .ok (.sknp 0x4) ∧ decode 0xF307 = .ok (.ldVxDt 0x3) ∧
    decode 0xF50A = .ok (.ldVxK 0x5) ∧ decode 0xF115 = .ok (.ldDtVx 0x1) ∧ decode 0xF118 = .ok (.ldStVx 0x1) := by
  decide

/-- R66: each row of unknown words by its name. -/
theorem test_decode_rejects_by_name :
    decode 0x0000 = .error .zeroFamily ∧ decode 0x5121 = .error .skipEqual ∧ decode 0x812F = .error .registerOp ∧
    decode 0x9121 = .error .skipNotEqual ∧ decode 0xE1FF = .error .keyOp ∧ decode 0xF1FF = .error .miscOp ∧
    decodeBytes [0x6A] = .error .truncated := by decide

/-- R44, R60: bytes are read high byte first, and two are used. -/
theorem test_decode_bytes_big_endian :
    decodeBytes [0x12, 0x34, 0x56] = .ok (.jp 0x234, [0x56]) ∧ decodeTableWord 16 0x1234 = some (.jp 0x234) := by
  decide

/-! ### One step of each instruction -/

/-- S1, DR1. -/
theorem test_cls_clears :
    let s := State.reset.setFb (Framebuffer.clear.flip 31 63)
    pcOf 0x00E0 s = (0x202, true) ∧ (ran 0x00E0 s).fb.cell 31 63 = false := by decide

/-- CF6. -/
theorem test_ret_pops :
    let s := (State.reset.setPc 0x212).setStack (Vector.replicate 16 0x206) 1
    pcOf 0x00EE s = (0x206, true) ∧ (ran 0x00EE s).sp = 0 := by decide

/-- CF7: code 2, PC = 0x200. -/
theorem test_ret_underflow :
    (ran 0x00EE State.reset).status = .halted ⟨.stackUnderflow, 0x200, some 0x00EE, none⟩ ∧
    (ran 0x00EE State.reset).pc = 0x200 := by decide

/-- CF1. -/
theorem test_jp : pcOf 0x1234 State.reset = (0x234, true) := by decide

/-- CF3. -/
theorem test_call_pushes :
    let s := State.reset.setPc 0x204
    pcOf 0x2210 s = (0x210, true) ∧ (ran 0x2210 s).slot 0 = 0x206 ∧ (ran 0x2210 s).sp = 1 := by decide

/-- CF5: code 1. -/
theorem test_call_overflow :
    let s := State.reset.setStack (Vector.replicate 16 0) 16
    (ran 0x2300 s).status = .halted ⟨.stackOverflow, 0x200, some 0x2300, none⟩ ∧ (ran 0x2300 s).sp = 16 := by decide

/-- CF9, CF10. -/
theorem test_seImm :
    let s := (withRegs [(3, 0x05)]).setPc 0x208
    pcOf 0x3305 s = (0x20C, true) ∧ pcOf 0x3306 s = (0x20A, true) := by decide

/-- CF17: PC + 2 is not wrapped. -/
theorem test_seImm_at_top : pcOf 0x3000 (State.reset.setPc 0xFFE) = (0x1002, true) := by decide

/-- CF11. -/
theorem test_sneImm :
    pcOf 0x4306 (withRegs [(3, 0x05)]) = (0x204, true) ∧ pcOf 0x4305 (withRegs [(3, 0x05)]) = (0x202, true) := by decide

/-- CF12, CF13, and the not-taken case of R105. -/
theorem test_seReg :
    pcOf 0x5120 (withRegs [(1, 0x7F), (2, 0x7F)]) = (0x204, true) ∧ pcOf 0x5110 (withRegs [(1, 0x9)]) = (0x204, true) ∧
    pcOf 0x5120 (withRegs [(1, 0x7F), (2, 0x7E)]) = (0x202, true) := by decide

/-- CF14, CF15. -/
theorem test_sneReg :
    pcOf 0x9120 (withRegs [(1, 0x01), (2, 0x02)]) = (0x204, true) ∧
    pcOf 0x9110 (withRegs [(1, 0x01)]) = (0x202, true) := by decide

/-- CF19, CF21: no wrap, and V0 whatever the x nibble is. -/
theorem test_jpV0 :
    pcOf 0xBFFF (withRegs [(0, 0xFF)]) = (0x10FE, true) ∧ pcOf 0xB300 (withRegs [(3, 0x50)]) = (0x300, true) := by decide

/-- AL1, AL2. -/
theorem test_ldImm : (ran 0x6A3C State.reset).getV 0xA = 0x3C ∧ (ran 0x6F42 State.reset).getV 0xF = 0x42 := by decide

/-- AL4 with VF preset as in S2b, AL5. -/
theorem test_addImm :
    regAndFlag 1 0x7102 (withRegs [(1, 0xFF), (0xF, 0x77)]) = (0x01, 0x77) ∧
    (ran 0x7F01 (withRegs [(0xF, 0xFF)])).getV 0xF = 0x00 := by decide

/-- AL6. -/
theorem test_ldReg : regAndFlag 1 0x8120 (withRegs [(2, 0x99)]) = (0x99, 0) := by decide

/-- AL7, AL11. -/
theorem test_orReg :
    regAndFlag 1 0x8121 (withRegs [(1, 0x0F), (2, 0xF0), (0xF, 0x55)]) = (0xFF, 0x55) ∧
    (ran 0x8F11 (withRegs [(0xF, 0x01), (1, 0x02)])).getV 0xF = 0x03 := by decide

/-- AL8. -/
theorem test_andReg : regAndFlag 1 0x8122 (withRegs [(1, 0x3C), (2, 0x0F), (0xF, 0x55)]) = (0x0C, 0x55) := by decide

/-- AL9, AL10. -/
theorem test_xorReg :
    regAndFlag 1 0x8123 (withRegs [(1, 0xFF), (2, 0x0F), (0xF, 0x55)]) = (0xF0, 0x55) ∧
    (ran 0x8113 (withRegs [(1, 0x5A)])).getV 1 = 0x00 := by decide

/-- AL12, AL13, AL15. -/
theorem test_addReg :
    regAndFlag 1 0x8124 (withRegs [(1, 0xFF), (2, 0x01)]) = (0x00, 1) ∧
    regAndFlag 1 0x8124 (withRegs [(1, 0x80), (2, 0x7F)]) = (0xFF, 0) ∧
    regAndFlag 1 0x8114 (withRegs [(1, 0x80)]) = (0x00, 1) := by decide

/-- AL16, AL17, AL18: VF as destination ends with the flag, and as source is the old VF. -/
theorem test_addReg_VF :
    (ran 0x8F14 (withRegs [(0xF, 0xFF), (1, 0x01)])).getV 0xF = 1 ∧
    (ran 0x8F14 (withRegs [(0xF, 0x10), (1, 0x01)])).getV 0xF = 0 ∧
    regAndFlag 1 0x81F4 (withRegs [(1, 0x01), (0xF, 0xFF)]) = (0x00, 1) := by decide

/-- AL19, AL20, AL21. -/
theorem test_subReg :
    regAndFlag 1 0x8125 (withRegs [(1, 0x05), (2, 0x03)]) = (0x02, 1) ∧
    regAndFlag 1 0x8125 (withRegs [(1, 0x05), (2, 0x05)]) = (0x00, 1) ∧
    regAndFlag 1 0x8125 (withRegs [(1, 0x00), (2, 0x01)]) = (0xFF, 0) := by decide

/-- AL22. -/
theorem test_subReg_VF : (ran 0x8F15 (withRegs [(0xF, 0x03), (1, 0x05)])).getV 0xF = 0 := by decide

/-- AL27, AL29. -/
theorem test_shr :
    regAndFlag 1 0x8126 (withRegs [(1, 0x81), (2, 0xAA)]) = (0x40, 1) ∧
    (ran 0x8F06 (withRegs [(0xF, 0x81)])).getV 0xF = 0x40 := by decide

/-- AL23, AL24. -/
theorem test_subnReg :
    regAndFlag 1 0x8127 (withRegs [(1, 0x03), (2, 0x05)]) = (0x02, 1) ∧
    regAndFlag 1 0x8127 (withRegs [(1, 0x01), (2, 0x00)]) = (0xFF, 0) := by decide

/-- AL26. -/
theorem test_subnReg_VF : (ran 0x8F17 (withRegs [(0xF, 0x03), (1, 0x05)])).getV 0xF = 1 := by decide

/-- AL30, AL31, AL32. -/
theorem test_shl :
    regAndFlag 1 0x810E (withRegs [(1, 0x81)]) = (0x02, 1) ∧ regAndFlag 1 0x810E (withRegs [(1, 0x7F)]) = (0xFE, 0) ∧
    (ran 0x8F0E (withRegs [(0xF, 0x81)])).getV 0xF = 0x02 := by decide

/-- AL33, AL34. -/
theorem test_rnd :
    let s := State.reset.setSupply (some 0xAB) 0
    (ran 0xC30F s).getV 3 = 0x0B ∧ (ran 0xC300 s).getV 3 = 0x00 := by decide

/-- IM1. -/
theorem test_ldI : (ran 0xAFFF State.reset).i = 0xFFF := by decide

/-- IM3, IM4. -/
theorem test_addI :
    (ran 0xF11E ((withRegs [(1, 0x01), (0xF, 0x55)]).setI 0xFFF)).i = 0x000 ∧
    (ran 0xF11E ((withRegs [(1, 0x01), (0xF, 0x55)]).setI 0xFFF)).getV 0xF = 0x55 ∧
    (ran 0xF11E ((withRegs [(1, 0xFF)]).setI 0xF80)).i = 0x07F := by decide

/-- IM5, IM6, IM7. -/
theorem test_ldF :
    (ran 0xF229 (withRegs [(2, 0x0A)])).i = 0x032 ∧ (ran 0xF229 (withRegs [(2, 0x0F)])).i = 0x04B ∧
    (ran 0xF229 (withRegs [(2, 0xFF)])).i = 0x4FB := by decide

/-- IM8: the same with FONT_BASE = 0x050. -/
theorem test_ldF_other_base : glyphAddress ⟨0x050, defaultGlyphs⟩ 0x0A = 0x082 := by decide

/-- IM9, IM11. -/
theorem test_ldB :
    (ran 0xF533 ((withRegs [(5, 0x7B)]).setI 0x300)).mem.readAll 0x300 4 = [0x01, 0x02, 0x03, 0x00] ∧
    (ran 0xF533 ((withRegs [(5, 0xFF)]).setI 0x300)).mem.readAll 0x300 3 = [0x02, 0x05, 0x05] := by decide

/-- IM13, IM14. -/
theorem test_ldB_at_top :
    (ran 0xF533 ((withRegs [(5, 0x7B)]).setI 0xFFD)).mem.readAll 0xFFD 3 = [0x01, 0x02, 0x03] ∧
    (ran 0xF533 ((withRegs [(5, 0x7B)]).setI 0xFFE)).status =
      .halted ⟨.dataOutOfRange, 0x200, some 0xF533, some 0x1000⟩ ∧
    (ran 0xF533 ((withRegs [(5, 0x7B)]).setI 0xFFE)).mem.read 0xFFE = 0 := by decide

/-- IM15. -/
theorem test_storeRegs :
    let t := ran 0xF155 ((withRegs [(0, 0x11), (1, 0x22), (2, 0x33)]).setI 0x400)
    t.mem.readAll 0x400 3 = [0x11, 0x22, 0x00] ∧ t.i = 0x400 := by decide

/-- IM16, IM17. -/
theorem test_storeRegs_at_top :
    (ran 0xF055 ((withRegs [(0, 0x11)]).setI 0xFFF)).mem.read 0xFFF = 0x11 ∧
    (ran 0xF155 ((withRegs [(0, 0x11), (1, 0x22)]).setI 0xFFF)).status =
      .halted ⟨.dataOutOfRange, 0x200, some 0xF155, some 0x1000⟩ ∧
    (ran 0xF155 ((withRegs [(0, 0x11), (1, 0x22)]).setI 0xFFF)).mem.read 0xFFF = 0x00 := by decide

/-- IM19. -/
theorem test_loadRegs :
    let t := ran 0xF265 (withBytes 0x300 [0x01, 0x02, 0x03, 0x04] (State.reset.setI 0x300))
    t.getV 0 = 1 ∧ t.getV 1 = 2 ∧ t.getV 2 = 3 ∧ t.getV 3 = 0 ∧ t.i = 0x300 := by decide

/-- IM21. -/
theorem test_loadRegs_out_of_range :
    let t := ran 0xFF65 ((withRegs [(0, 0x77)]).setI 0xFF1)
    t.status = .halted ⟨.dataOutOfRange, 0x200, some 0xFF65, some 0x1000⟩ ∧ t.getV 0 = 0x77 := by decide

/-- DR3: the sprite goes on at column 0. -/
theorem test_drw_wraps :
    let t := ran 0xD011 (withBytes 0x300 [0xFF] ((withRegs [(0, 0x3E)]).setI 0x300))
    t.fb.cell 0 62 = true ∧ t.fb.cell 0 0 = true ∧ t.fb.cell 0 5 = true ∧ t.fb.cell 0 6 = false ∧
    t.fb.cell 0 61 = false ∧ t.getV 0xF = 0 := by decide

/-- DR5: a collision, with both coordinates 255. -/
theorem test_drw_collides :
    let s := (withBytes 0x300 [0x80] ((withRegs [(0, 0xFF), (1, 0xFF)]).setI 0x300)).setFb (Framebuffer.clear.flip 31 63)
    (ran 0xD011 s).fb.cell 31 63 = false ∧ (ran 0xD011 s).getV 0xF = 1 := by decide

/-- KY1, KY2, KY4. -/
theorem test_skp :
    pcOf 0xE49E (keysDown [7] (withRegs [(4, 0x07)])) = (0x204, true) ∧ pcOf 0xE49E (withRegs [(4, 0x07)]) = (0x202, true) ∧
    pcOf 0xE49E (keysDown [0, 7] (withRegs [(4, 0x10)])) = (0x202, true) := by decide

/-- KY3, KY5. -/
theorem test_sknp :
    pcOf 0xE4A1 (withRegs [(4, 0x07)]) = (0x204, true) ∧ pcOf 0xE4A1 (withRegs [(4, 0x10)]) = (0x202, true) ∧
    pcOf 0xE4A1 (keysDown [7] (withRegs [(4, 0x07)])) = (0x202, true) := by decide

/-- TM1. -/
theorem test_ldVxDt :
    (ran 0xF307 (State.reset.setDt 0x3C)).getV 3 = 0x3C ∧ (ran 0xF307 (State.reset.setDt 0x3C)).dt = 0x3C := by decide

/-- KY8, KY10. -/
theorem test_ldVxK :
    (ran 0xF50A (keysDown [9, 3] State.reset)).getV 5 = 0x03 ∧ pcOf 0xFF0A (keysDown [0] State.reset) = (0x202, true) := by
  decide

/-- KY6. -/
theorem test_ldVxK_waits :
    let t := ran 0xF50A (State.reset.setPc 0x210)
    t.pc = 0x210 ∧ t.port.report = some .notAdvanced := by decide

/-- TM2. -/
theorem test_ldDtVx : (ran 0xF115 (withRegs [(1, 0x3C)])).dt = 0x3C ∧ (ran 0xF115 (withRegs [(1, 0x3C)])).st = 0 := by
  decide

/-- TM3. -/
theorem test_ldStVx : (ran 0xF118 (withRegs [(1, 0x05)])).st = 0x05 ∧ (ran 0xF118 (withRegs [(1, 0x05)])).dt = 0 := by
  decide

/-- FD7, FD11. -/
theorem test_unknown_words :
    pcOf 0x0123 State.reset = (0x202, true) ∧ pcOf 0x812F (withRegs [(1, 1)]) = (0x202, true) ∧
    pcOf 0xF100 State.reset = (0x202, true) := by decide

/-- FD12: an odd PC. -/
theorem test_odd_pc : pcOf 0x6A3C (State.reset.setPc 0x201) = (0x203, true) := by decide

/-! ### Reset and the ports -/

/-- RS1: the font's ends and its neighbours. -/
theorem test_reset_memory :
    State.reset.mem.readAll 0x000 5 = [0xF0, 0x90, 0x90, 0x90, 0xF0] ∧
    State.reset.mem.readAll 0x04B 6 = [0xF0, 0x80, 0xF0, 0x80, 0x80, 0x00] ∧ State.reset.mem.read 0xFFF = 0 := by decide

/-- TM4, TM5, TM6. -/
theorem test_tick :
    ((State.reset.setDt 3).setSt 1).tick.dt = 2 ∧ ((State.reset.setDt 3).setSt 1).tick.st = 0 ∧
    State.reset.tick.dt = 0 ∧ (haltedCore.setDt 3).tick.dt = 3 := by decide

/-- TM7, RS6, RS7. -/
theorem test_halted :
    (haltedCore.keyDown 1).key[(1 : Fin 16)] = false ∧ step haltedCore = .next haltedCore ∧
    haltedCore.resetPort.status = .running := ⟨by decide, rfl, rfl⟩

/-- RS4, RS5. -/
theorem test_load :
    (State.reset.giveReport .advanced).load [0x00, 0xE0] = .refused .loadAfterStep ∧
    State.reset.load [] = .next State.reset := ⟨rfl, rfl⟩

/-- R86: the byte given with a Step reaches CXNN, and is gone after the step. -/
theorem test_step_with_rand :
    (match (State.reset.placeWord 0xC3FF).stepWith 0xAB with
      | .next t => decide (t.getV 3 = 0xAB ∧ t.port.rand = none)
      | _ => false) = true := by decide

/-! ### Witnesses: a state and operands that meet the hypotheses of each obligation, clause by clause, at the ends of
the ranges. Obligations not named here have no hypotheses, or none beyond a case of one variable shown elsewhere. -/

/-- The hypotheses of a step that decodes, at the last address a fetch may have. -/
theorem witness_StepRunsDecodedInstruction :
    let s := (State.reset.setPc 0xFFE).placeWord 0x6A3C
    s.status = .running ∧ s.pc.toNat + 1 ≤ 0xFFF ∧
    decode (wordOf (s.mem.read s.pc.toNat) (s.mem.read (s.pc.toNat + 1))) = .ok (.ldImm 0xA 0x3C) := by decide

theorem witness_UnknownWordIsNoOp :
    let s := State.reset.setPc 0xFFE
    s.status = .running ∧ s.pc.toNat + 1 ≤ 0xFFF ∧
    selects (wordOf (s.mem.read s.pc.toNat) (s.mem.read (s.pc.toNat + 1))) = false := by decide

/-- Both forms of the address: PC = 0xFFF, and PC above it. -/
theorem witness_FetchBeyondMemoryHalts :
    (State.reset.setPc 0xFFF).status = .running ∧ 0xFFF ≤ (State.reset.setPc 0xFFF).pc.toNat ∧
    (State.reset.setPc 0x10FE).status = .running ∧ 0xFFF ≤ (State.reset.setPc 0x10FE).pc.toNat := by decide

/-- A Halted core with the invariant. -/
theorem haltedCore_inv : haltedCore.Inv where
  mem := by decide
  index := by decide
  pc := by decide
  returns := by decide
  halted := by
    intro f h
    cases h
    exact ⟨⟨rfl, rfl⟩, rfl, rfl⟩

/-- A Running core with the invariant, at the largest PC and I, with a listed byte and a full stack. -/
def busyCore : State :=
  (withBytes 0xFFF [0x12] ((State.reset.setPc 0x10FE).setI 0xFFF)).setStack (Vector.replicate 16 0x1000) 16

theorem busyCore_inv : busyCore.Inv where
  mem := by decide
  index := by decide
  pc := by decide
  returns := by decide
  halted := by intro f h; cases h

theorem witness_HaltedUntilReset :
    ∃ f, haltedCore.Inv ∧ haltedCore.status = .halted f ∧ .reset ∉ [PortCall.step 0xFF, .tick, .keyDown 3] :=
  ⟨_, haltedCore_inv, rfl, by decide⟩

theorem witness_StepKeepsInvariant : busyCore.Inv ∧ busyCore.status = .running ∧ haltedCore.Inv :=
  ⟨busyCore_inv, rfl, haltedCore_inv⟩

theorem witness_ScheduleKeepsInvariant : ∃ (s : State) (cs : List PortCall), s.Inv ∧ cs = [.step 0, .tick] :=
  ⟨_, _, busyCore_inv, rfl⟩

/-- Each of the four causes, the last at the first I that is too high for five rows, and no cause one below it. -/
theorem witness_StepHaltsExactlyOnFatalCause :
    let s := State.reset.placeWord 0xD015
    (fatalCause (State.reset.setPc 0xFFF)).isSome = true ∧
    (fatalCause ((State.reset.placeWord 0x2300).setStack State.reset.stack 16)).isSome = true ∧
    (fatalCause (State.reset.placeWord 0x00EE)).isSome = true ∧
    (fatalCause (s.setI 0xFFC)).isSome = true ∧ fatalCause (s.setI 0xFFB) = none ∧
    s.status = .running ∧ (s.setI 0xFFC).i.toNat < 0x1000 := by decide

/-- A step of the table's every kind of row: a jump, a skip, a wait, and a plain instruction. -/
theorem witness_PcAfterEveryStep :
    let at_ (w : Word) := State.reset.placeWord w
    (at_ 0xBFFF).status = .running ∧ fatalCause (at_ 0xBFFF) = none ∧ fatalCause (at_ 0x3000) = none ∧
    fatalCause (at_ 0xF50A) = none ∧ fatalCause (at_ 0x00E0) = none := by decide

theorem witness_OnlyRndReadsTheDraw : nibbleAt (State.reset.placeWord 0x6A3C).fetchWord 3 ≠ 0xC := by decide

theorem witness_StepGivesItsByteToRnd :
    let s := State.reset.placeWord 0xC3FF
    s.status = .running ∧ s.pc.toNat + 1 ≤ 0xFFF ∧ decode s.fetchWord = .ok (.rnd 0x3 0xFF) := by decide

theorem witness_OnlyNamedRegistersChange :
    ∃ t, exec (.addReg 1 2) State.reset = .next t ∧ ¬ MayWrite (.addReg 1 2) 3 :=
  ⟨_, rfl, by unfold MayWrite; decide⟩

/-- Each element of the state is changed by some instruction. -/
theorem witness_ElementsHaveOnlyTheirWriters :
    let s := withRegs [(0, 0x7B)]
    (ran 0xD015 s).fb ≠ s.fb ∧ (ran 0x2300 s).stack ≠ s.stack ∧ (ran 0x2300 s).sp ≠ s.sp ∧
    (ran 0xF055 s).mem ≠ (s.placeWord 0xF055).mem ∧ (ran 0xA300 s).i ≠ s.i ∧ (ran 0xF015 s).dt ≠ s.dt ∧
    (ran 0xF018 s).st ≠ s.st ∧ (ran 0x00EE s).status ≠ s.status := by decide

theorem witness_EncodeOfDecode : decode 0xFF65 = .ok (.loadRegs 0xF) := by decide

theorem witness_MemoryReadsLastWrite :
    Memory.wf [(0x000, 0x00), (0xFFF, 0x12)] = true ∧ 0xFFF ≤ 0xFFF ∧ 0x000 ≤ 0xFFF := by decide

/-- JP 0x234 dumped at the last two bytes of memory, where PC is. -/
theorem witness_StoredInstructionIsFetched :
    let s := ((withRegs [(0, 0x12), (1, 0x34)]).setI 0xFFE).setPc 0xFFE
    s.mem.wf = true ∧ s.status = .running ∧ s.dataBase + 1 ≤ 0xFFF ∧ s.dataBase = s.pc.toNat ∧
    decode (wordOf (s.getV 0) (s.getV 1)) = .ok (.jp 0x234) := by decide

/-- The last free slot, and a full stack. -/
theorem witness_CallPushesReturnAddress :
    (State.reset.setStack State.reset.stack 15).sp.val < 16 ∧ (State.reset.setStack State.reset.stack 16).sp.val = 16 := by
  decide

/-- One live slot, sixteen, and none. -/
theorem witness_RetPopsReturnAddress :
    (State.reset.setStack State.reset.stack 1).sp.val = (0 : Fin 16).val + 1 ∧
    (State.reset.setStack State.reset.stack 16).sp.val = (15 : Fin 16).val + 1 ∧ State.reset.sp.val = 0 := by decide

theorem witness_NestedCallsReturn : State.reset.sp.val + (List.replicate 16 (0x300 : Addr12)).length ≤ 16 := by decide

/-- AddWithCarry, SubtractWithNoBorrow and ShiftByOne: a destination other than VF. -/
theorem witness_destination_other_than_VF : (0xE : Reg) ≠ regF ∧ (0x0 : Reg) ≠ regF := by decide

theorem witness_RandomByteMasked :
    (State.reset.setSupply (some 0xAB) 0).port.rand = some 0xAB ∧ State.reset.port.rand = none := by decide

theorem witness_FontCharacter : Config.Font.legal ⟨0x1B0, defaultGlyphs⟩ = true := by decide

/-- The last I that fits three bytes, and the first that does not. -/
theorem witness_StoreBcdDigits :
    (State.reset.setI 0xFFD).mem.wf = true ∧ (State.reset.setI 0xFFD).i.toNat + 2 ≤ 0xFFF ∧
    (State.reset.setI 0xFFE).i.toNat ≤ 0xFFF ∧ (State.reset.setI 0xFFE).i.toNat + 2 > 0xFFF := by decide

/-- At I = 0xFFF, x = 0 fits and x = 1 does not; DumpRegisters and LoadRegisters have the same clauses. -/
theorem witness_DumpRegisters :
    let s := State.reset.setI 0xFFF
    s.mem.wf = true ∧ s.i.toNat ≤ 0xFFF ∧ s.i.toNat + (0 : Reg).val ≤ 0xFFF ∧ s.i.toNat + (1 : Reg).val > 0xFFF := by
  decide

theorem witness_DumpThenLoadRestores :
    ∃ t, (State.reset.setI 0xFF0).mem.wf = true ∧ (State.reset.setI 0xFF0).i.toNat + (0xF : Reg).val ≤ 0xFFF ∧
      exec (.storeRegs 0xF) (State.reset.setI 0xFF0) = .next t :=
  ⟨_, by decide, by decide, rfl⟩

/-- A screen with (0, 0) lit and a sprite of one bit there, as in DR4. -/
def litScreen : State :=
  (withBytes 0x300 [0x80] (State.reset.setI 0x300)).setFb (Framebuffer.clear.flip 0 0)

/-- The last I that fits five rows; n = 0 at any I; a sprite with a bit on a lit cell, and one with none. -/
theorem witness_DrawXorsSprite :
    ((0 : Fin 16).val = 0 ∨ (State.reset.setI 0xFFF).i.toNat + (0 : Fin 16).val - 1 ≤ 0xFFF) ∧
    ((5 : Fin 16).val = 0 ∨ (State.reset.setI 0xFFB).i.toNat + (5 : Fin 16).val - 1 ≤ 0xFFF) ∧
    (∃ r c, Covers litScreen 0 1 1 r c ∧ litScreen.fb.cell r c = true) ∧
    ¬ ∃ r c, Covers litScreen 0 1 0 r c ∧ litScreen.fb.cell r c = true :=
  ⟨by decide, by decide, ⟨0, 0, ⟨0, 0, by decide⟩, by decide⟩, fun ⟨_, _, ⟨_, _, h, _⟩, _⟩ => absurd h (Nat.not_lt_zero _)⟩

theorem witness_DrawOutOfRangeHalts :
    (State.reset.setI 0xFFC).i.toNat ≤ 0xFFF ∧ 0 < (5 : Fin 16).val ∧
    (State.reset.setI 0xFFC).i.toNat + (5 : Fin 16).val - 1 > 0xFFF := by decide

/-- A draw that unlights a cell. -/
theorem witness_CollisionIsSetToUnset :
    ∃ t, exec (.drw 0 1 1) litScreen = .next t ∧ t.status = litScreen.status ∧ litScreen.status = .running ∧
      ∃ r c, litScreen.fb.cell r c = true ∧ t.fb.cell r c = false :=
  ⟨_, rfl, rfl, rfl, 0, 0, by decide, by decide⟩

/-- A first draw that erases a lit cell, so that the second has nothing to erase; and one on a clear screen. -/
theorem witness_DrawTwiceRestoresScreen :
    (∃ t, litScreen.status = .running ∧ exec (.drw 0 1 1) litScreen = .next t ∧ t.status = .running) ∧
    ∃ r c, Covers (litScreen.setFb Framebuffer.clear) 0 1 1 r c ∧
      (litScreen.setFb Framebuffer.clear).fb.cell r c = false :=
  ⟨⟨_, rfl, rfl, rfl⟩, 0, 0, ⟨0, 0, by decide⟩, by decide⟩

/-- A register that names the last key, and the first value that names none. -/
theorem witness_KeySkips :
    ((withRegs [(4, 0x0F)]).getV 4).toNat = (15 : Fin 16).val ∧ ((withRegs [(4, 0x10)]).getV 4).toNat > 0xF := by decide

/-- Keys 3 and 9 down, and none. -/
theorem witness_WaitForKey :
    (keysDown [9, 3] State.reset).key[(3 : Fin 16)] = true ∧
    (∀ j : Fin 16, j < 3 → (keysDown [9, 3] State.reset).key[j] = false) ∧
    ∀ k : Fin 16, State.reset.key[k] = false := by decide

/-- TickCountsDown and KeyPortsSetLatch: a Running core and a Halted one. -/
theorem witness_ports : busyCore.status = .running ∧ ∃ f, haltedCore.status = .halted f := ⟨rfl, _, rfl⟩

/-- The longest image that fits and the shortest that does not, before a Step and after one. -/
theorem witness_LoadCopiesImage :
    State.reset.mem.wf = true ∧ State.reset.port.report = none ∧ (List.replicate 0xE00 (0 : Byte)).length ≤ 0xE00 ∧
    (List.replicate 0xE01 (0 : Byte)).length > 0xE00 ∧ haltedCore.port.report ≠ none := by
  refine ⟨by decide, rfl, ?_, ?_, by decide⟩ <;> rw [List.length_replicate]; decide


end Sys2Proof.Tests
end

section
/-! PROOFS for 40_execution_cycle.md: which words the decoder gives an instruction for (30_encoding.md rule R65), one
step of a Running core by what the word at PC decodes to (R80, R84), and a Step call whose word is Cxnn (R131, R212). -/

namespace Sys2Proof

/-! ### The words that decode -/

theorem decodeRegisterOp_isOk (x y : Reg) (n : BitVec 4) :
    (decodeRegisterOp x y n).isOk = registerOps.contains n.toNat := by
  unfold decodeRegisterOp
  split <;> simp_all [registerOps, Except.isOk, Except.toBool]

theorem decodeKeyOp_isOk (x : Reg) (nn : Byte) : (decodeKeyOp x nn).isOk = keyOps.contains nn.toNat := by
  unfold decodeKeyOp
  split <;> simp_all [keyOps, Except.isOk, Except.toBool]

theorem decodeMiscOp_isOk (x : Reg) (nn : Byte) : (decodeMiscOp x nn).isOk = miscOps.contains nn.toNat := by
  unfold decodeMiscOp
  split <;> simp_all [miscOps, Except.isOk, Except.toBool]

/-- Families 5 and 9. -/
theorem isOk_ite_eq_zero (n : BitVec 4) (i : Instr) (u : Unknown) :
    (if n = 0#4 then Except.ok i else Except.error u).isOk = (n.toNat == 0) := by
  simp only [← BitVec.toNat_inj]
  split <;> simp_all [Except.isOk, Except.toBool]

/-- Family 0. -/
theorem isOk_ite_cls_ret (w : Word) :
    (if w = 0x00E0#16 then Except.ok Instr.cls
      else if w = 0x00EE#16 then .ok .ret else .error Unknown.zeroFamily).isOk =
      (w.toNat == 0x00E0 || w.toNat == 0x00EE) := by
  simp only [← BitVec.toNat_inj]
  split
  · simp_all [Except.isOk, Except.toBool]
  · split <;> simp_all [Except.isOk, Except.toBool]

/-- R65 (decision D5), family by family: the decoder gives an instruction for exactly the words that are selected. -/
theorem decode_isOk (w : Word) : (decode w).isOk = selects w := by
  have hop := (fieldOp w).isLt
  unfold decode selects
  rw [nibbleAt_three, nibbleAt_zero, toNat_mod_256]
  generalize (fieldOp w).toNat = op at *
  match op, hop with
  | 0x0, _ => exact isOk_ite_cls_ret w
  | 0x5, _ => exact isOk_ite_eq_zero _ _ _
  | 0x8, _ => exact decodeRegisterOp_isOk _ _ _
  | 0x9, _ => exact isOk_ite_eq_zero _ _ _
  | 0xE, _ => exact decodeKeyOp_isOk _ _
  | 0xF, _ => exact decodeMiscOp_isOk _ _
  | 0x1, _ | 0x2, _ | 0x3, _ | 0x4, _ | 0x6, _ | 0x7, _ | 0xA, _ | 0xB, _ | 0xC, _ | 0xD, _ => rfl
  | _ + 16, h => exact absurd h (by omega)

/-- R66: a word that is not selected is an unknown one. -/
theorem decode_eq_error_of_not_selects {w : Word} (h : selects w = false) : ∃ u, decode w = .error u := by
  rw [← decode_isOk] at h
  cases hw : decode w with
  | ok i => rw [hw] at h; cases h
  | error u => exact ⟨u, rfl⟩

end Sys2Proof

namespace Sys2Proof.Machine

/-! ### One step of a Running core -/

/-- R80: a fetched word that decodes is run with PC advanced. -/
theorem step_of_decode_ok {s : State} {i : Instr} (hrun : s.status = .running) (hpc : s.pc.toNat + 1 ≤ 0xFFF)
    (hw : decode s.fetchWord = .ok i) : step s = exec i s.advancePc := by
  simp only [step, hrun, fetchBadAddr_eq_none.mpr hpc, hw]

/-- R84: a fetched word that does not decode advances PC and does nothing else. -/
theorem step_of_decode_error {s : State} {u : Unknown} (hrun : s.status = .running) (hpc : s.pc.toNat + 1 ≤ 0xFFF)
    (hw : decode s.fetchWord = .error u) : step s = .next (s.advancePc.giveReport .advanced) := by
  simp only [step, hrun, fetchBadAddr_eq_none.mpr hpc, hw, State.unknownNoOp_eq]

/-! ### A Step call -/

@[simp] theorem State.fetchWord_setSupply (s : State) (r : Option Byte) (n : Nat) :
    (s.setSupply r n).fetchWord = s.fetchWord := rfl

/-- R86: what a Step call leaves is what the step leaves when the byte is offered to it, with no byte left over. -/
theorem State.stepWith_of_step_eq_next {s t : State} {rand : Byte}
    (h : step (s.setSupply (some rand) s.port.draws) = .next t) :
    s.stepWith rand = .next (t.setSupply none t.port.draws) := by
  simp only [State.stepWith, h]

/-- R131, R212: RND in full: the draw ANDed with nn goes to Vx, and the draw is used. -/
theorem exec_rnd_eq (x : Reg) (nn : Byte) (s : State) :
    exec (.rnd x nn) s =
      .next (((s.setV x (s.draw &&& nn)).setSupply none (s.port.draws + 1)).giveReport .advanced) := rfl

/-- R80, R131, R212: a Step call whose word is Cxnn, in full. -/
theorem State.stepWith_rnd {s : State} {x : Reg} {nn : Byte} (rand : Byte) (hrun : s.status = .running)
    (hpc : s.pc.toNat + 1 ≤ 0xFFF) (hw : decode s.fetchWord = .ok (.rnd x nn)) :
    s.stepWith rand =
      .next (((s.advancePc.setV x (rand &&& nn)).setSupply none (s.port.draws + 1)).giveReport .advanced) := by
  have hstep := (step_of_decode_ok (s := s.setSupply (some rand) s.port.draws) hrun hpc hw).trans (exec_rnd_eq x nn _)
  exact State.stepWith_of_step_eq_next hstep

/-- The frame of that state: Vx, PC, the report and the supply of draws are all that differs. -/
theorem keeps_rnd (s : State) (x : Reg) (b : Byte) (n : Nat) :
    Keeps { regs := (· = x), draw := True } s
      (((s.advancePc.setV x b).setSupply none n).giveReport .advanced) where
  regs r hr := by simp [show r ≠ x from hr]
  bytes _ _ := rfl
  index _ := rfl
  stack _ := ⟨rfl, rfl⟩
  delay _ := rfl
  sound _ := rfl
  screen _ := rfl
  draw h := absurd trivial h
  keys := rfl
  status := rfl

end Sys2Proof.Machine

open Sys2Proof Sys2Proof.Machine

/-- Settles O1: the rule of a step whose word decodes. -/
theorem stepRunsDecodedInstruction : Obligations.StepRunsDecodedInstruction :=
  fun _ _ hrun hpc hw => step_of_decode_ok hrun hpc hw

/-- Settles O2: a word that is not selected does not decode, so the step is the no-op. -/
theorem unknownWordIsNoOp : Obligations.UnknownWordIsNoOp := by
  refine ⟨by decide, fun s hrun hpc hsel => ?_⟩
  obtain ⟨u, hw⟩ := decode_eq_error_of_not_selects hsel
  exact step_of_decode_error hrun hpc hw

/-- Settles O11: the state after the Step call in full, and its frame. -/
theorem stepGivesItsByteToRnd : Obligations.StepGivesItsByteToRnd :=
  fun s rand nn x hrun hpc hw =>
    ⟨_, State.stepWith_rnd rand hrun hpc hw, by simp, rfl, rfl, rfl, keeps_rnd s x (rand &&& nn) (s.port.draws + 1)⟩
end

section
/-! PROOFS for 41_control_flow.md: CALL, which pushes the return address or halts with STACK_OVERFLOW (R102), and the
two skips that compare a register with an immediate (R103, R104, R108). -/

namespace Sys2Proof

/-! ### The words -/

theorem decode_call (nnn : Addr12) : decode (packNNN 0x2#4 nnn) = .ok (.call nnn) := by
  simp [decode, fieldOp_packNNN, fieldNNN_packNNN]

theorem decode_seImm (x : Reg) (nn : Byte) : decode (packXNN 0x3#4 x nn) = .ok (.seImm x nn) := by
  simp [decode, fieldOp_packXNN, fieldX_packXNN, fieldNN_packXNN]

theorem decode_sneImm (x : Reg) (nn : Byte) : decode (packXNN 0x4#4 x nn) = .ok (.sneImm x nn) := by
  simp [decode, fieldOp_packXNN, fieldX_packXNN, fieldNN_packXNN]

end Sys2Proof

namespace Sys2Proof.Machine

/-! ### What an instruction that only writes PC, or PC and the stack, leaves unchanged -/

theorem keeps_setPc (c : Changes) (s : State) (w : Word) (r : StepResult) :
    Keeps c s ((s.setPc w).giveReport r) where
  regs _ _ := rfl
  bytes _ _ := rfl
  index _ := rfl
  stack _ := ⟨rfl, rfl⟩
  delay _ := rfl
  sound _ := rfl
  screen _ := rfl
  draw _ := ⟨rfl, rfl⟩
  keys := rfl
  status := rfl

theorem keeps_setStack_setPc (s : State) (slots : Vector Word 16) (n : Fin 17) (w : Word) (r : StepResult) :
    Keeps { stack := True } s (((s.setStack slots n).setPc w).giveReport r) where
  regs _ _ := rfl
  bytes _ _ := rfl
  index _ := rfl
  stack h := absurd trivial h
  delay _ := rfl
  sound _ := rfl
  screen _ := rfl
  draw _ := ⟨rfl, rfl⟩
  keys := rfl
  status := rfl

/-- R81, R202: a fatal error with the record of the instruction at PC - 2 rolls the step back. -/
theorem State.enterHalted_eq_rolledBack (kind : FatalKind) (word : Option Word) (bad : Option Nat) (s : State) :
    s.enterHalted ⟨kind, s.pc - 2, word, bad⟩ = RolledBack s ⟨kind, s.pc - 2, word, bad⟩ := rfl

/-! ### CALL (R102) -/

/-- R102: the state CALL leaves when a slot is free: the advanced PC in slot SP, SP one more, and PC the target. -/
def State.called (nnn : Addr12) (s : State) (h : s.sp.val < 16) : State :=
  ((s.setStack (s.stack.set s.sp.val s.pc) ⟨s.sp.val + 1, by omega⟩).setPc (zext16 nnn)).giveReport .advanced

theorem exec_call_of_lt (nnn : Addr12) {s : State} (h : s.sp.val < 16) :
    exec (.call nnn) s = .next (s.called nnn h) := by
  simp only [exec, execCall, dif_pos h, State.advanced, State.called]

theorem exec_call_of_full (nnn : Addr12) {s : State} (h : s.sp.val = 16) :
    exec (.call nnn) s = .next (RolledBack s ⟨.stackOverflow, s.pc - 2, some (packNNN 0x2#4 nnn), none⟩) := by
  have hfull : ¬ s.sp.val < 16 := by omega
  simp only [exec, execCall, dif_neg hfull, State.raiseFatal_eq, State.enterHalted_eq_rolledBack, encode]

/-- R102: of the slots, CALL writes the one numbered SP alone, with the return address. -/
theorem State.called_slot (nnn : Addr12) (s : State) (h : s.sp.val < 16) (k : Fin 16) :
    (s.called nnn h).slot k = if k.val = s.sp.val then s.pc else s.slot k := by
  simp only [State.called, State.slot, State.giveReport_stack, State.setPc_stack, State.setStack_stack,
    Fin.getElem_fin, Vector.getElem_set, eq_comm]

/-! ### SE Vx, nn and SNE Vx, nn (R103, R104) -/

theorem exec_seImm_eq (x : Reg) (nn : Byte) (s : State) :
    exec (.seImm x nn) s =
      .next ((s.setPc (if s.getV x = nn then s.pc + 2 else s.pc)).giveReport .advanced) := by
  simp only [exec, execSeImm, State.skipIf_eq, beq_iff_eq]

theorem exec_sneImm_eq (x : Reg) (nn : Byte) (s : State) :
    exec (.sneImm x nn) s =
      .next ((s.setPc (if s.getV x ≠ nn then s.pc + 2 else s.pc)).giveReport .advanced) := by
  simp only [exec, execSneImm, State.skipIf_eq, bne_iff_ne]

end Sys2Proof.Machine

open Sys2Proof Sys2Proof.Machine

/-- Settles O23: with a free slot the state is `State.called`, and with none the step is rolled back. -/
theorem callPushesReturnAddress : Obligations.CallPushesReturnAddress := by
  intro nnn s
  refine ⟨decode_call nnn, fun h => ?_, exec_call_of_full nnn⟩
  have hself : (s.called nnn h).slot ⟨s.sp.val, h⟩ = s.pc := by simp [State.called_slot]
  have hother : ∀ k : Fin 16, k.val ≠ s.sp.val → (s.called nnn h).slot k = s.slot k :=
    fun k hk => by rw [State.called_slot, if_neg hk]
  exact ⟨s.called nnn h, exec_call_of_lt nnn h, rfl, hself, hother, zext16_toNat nnn, rfl,
    keeps_setStack_setPc s _ _ _ _⟩

/-- Settles O25: each skip is a write of PC by its condition, and leaves all else. -/
theorem skipOnImmediate : Obligations.SkipOnImmediate :=
  fun x nn s => ⟨decode_seImm x nn, decode_sneImm x nn,
    ⟨_, exec_seImm_eq x nn s, rfl, rfl, keeps_setPc {} s _ _⟩,
    ⟨_, exec_sneImm_eq x nn s, rfl, rfl, keeps_setPc {} s _ _⟩⟩
end

section
/-! PROOFS for 42_alu.md: the instructions that write one register and no flag, which load an immediate, add one, and
copy a register (R120, R121, R122). -/

namespace Sys2Proof

/-! ### The words -/

theorem decode_ldImm (x : Reg) (nn : Byte) : decode (packXNN 0x6#4 x nn) = .ok (.ldImm x nn) := by
  simp [decode, fieldOp_packXNN, fieldX_packXNN, fieldNN_packXNN]

theorem decode_addImm (x : Reg) (nn : Byte) : decode (packXNN 0x7#4 x nn) = .ok (.addImm x nn) := by
  simp [decode, fieldOp_packXNN, fieldX_packXNN, fieldNN_packXNN]

/-- R65: family 8 is the nested switch on `n`. -/
theorem decode_registerOp (x y : Reg) (n : BitVec 4) :
    decode (packXYN 0x8#4 x y n) = decodeRegisterOp x y n := by
  simp [decode, fieldOp_packXYN, fieldX_packXYN, fieldY_packXYN, fieldN_packXYN]

theorem decode_ldReg (x y : Reg) : decode (packXYN 0x8#4 x y 0x0#4) = .ok (.ldReg x y) :=
  decode_registerOp x y 0x0#4

end Sys2Proof

namespace Sys2Proof.Machine

/-! ### A write of one register -/

/-- The state an instruction leaves whose rule is one write of Vx with result Advanced. -/
def State.wroteV (x : Reg) (b : Byte) (s : State) : State := (s.setV x b).giveReport .advanced

theorem State.wroteV_getV_self (x : Reg) (b : Byte) (s : State) : (s.wroteV x b).getV x = b := by
  rw [State.wroteV, State.giveReport_getV, State.setV_getV, if_pos rfl]

/-- Every register but Vx is kept, so VF is not written as a flag. -/
theorem State.wroteV_getV_of_ne {x r : Reg} (h : r ≠ x) (b : Byte) (s : State) :
    (s.wroteV x b).getV r = s.getV r := by
  rw [State.wroteV, State.giveReport_getV, State.setV_getV, if_neg h]

theorem keeps_wroteV (x : Reg) (b : Byte) (s : State) : Keeps { regs := (· = x) } s (s.wroteV x b) where
  regs _ hr := State.wroteV_getV_of_ne hr b s
  bytes _ _ := rfl
  index _ := rfl
  stack _ := ⟨rfl, rfl⟩
  delay _ := rfl
  sound _ := rfl
  screen _ := rfl
  draw _ := ⟨rfl, rfl⟩
  keys := rfl
  status := rfl

/-! ### LD Vx, nn, ADD Vx, nn and LD Vx, Vy (R120, R121, R122) -/

theorem exec_ldImm_eq (x : Reg) (nn : Byte) (s : State) : exec (.ldImm x nn) s = .next (s.wroteV x nn) := rfl

theorem exec_addImm_eq (x : Reg) (nn : Byte) (s : State) :
    exec (.addImm x nn) s = .next (s.wroteV x (s.getV x + nn)) := rfl

theorem exec_ldReg_eq (x y : Reg) (s : State) : exec (.ldReg x y) s = .next (s.wroteV x (s.getV y)) := rfl

/-- R121, R132: the sum ADD leaves in Vx is taken modulo 256. -/
theorem State.wroteV_add_toNat (x : Reg) (nn : Byte) (s : State) :
    ((s.wroteV x (s.getV x + nn)).getV x).toNat = ((s.getV x).toNat + nn.toNat) % 256 := by
  rw [State.wroteV_getV_self, BitVec.toNat_add]

end Sys2Proof.Machine

open Sys2Proof Sys2Proof.Machine

/-- Settles O29: each instruction is one write of Vx, of nn or of the sum, and leaves all else. -/
theorem immediateLoadAndAdd : Obligations.ImmediateLoadAndAdd :=
  fun x nn s => ⟨decode_ldImm x nn, decode_addImm x nn,
    ⟨_, exec_ldImm_eq x nn s, State.wroteV_getV_self x nn s, rfl, rfl, keeps_wroteV x nn s⟩,
    ⟨_, exec_addImm_eq x nn s, State.wroteV_add_toNat x nn s, rfl, rfl, keeps_wroteV x _ s⟩⟩

/-- Settles O30: the copy is one write of Vx, of the old Vy, and leaves all else. -/
theorem registerCopy : Obligations.RegisterCopy :=
  fun x y s => ⟨decode_ldReg x y,
    ⟨_, exec_ldReg_eq x y s, State.wroteV_getV_self x _ s, rfl, rfl, keeps_wroteV x _ s⟩⟩
end

section
/-! PROOFS for 43_index_memory.md: LD I, nnn (R140), and LD B, Vx, which stores the three decimal digits of Vx or halts
with DATA_OUT_OF_RANGE (R143, R43). -/

namespace Sys2Proof

/-! ### The words -/

theorem decode_ldI (nnn : Addr12) : decode (packNNN 0xA#4 nnn) = .ok (.ldI nnn) := by
  simp [decode, fieldOp_packNNN, fieldNNN_packNNN]

/-- R65: family F is the nested switch on `nn`. -/
theorem decode_miscOp (x : Reg) (nn : Byte) : decode (packXNN 0xF#4 x nn) = decodeMiscOp x nn := by
  simp [decode, fieldOp_packXNN, fieldX_packXNN, fieldNN_packXNN]

theorem decode_ldB (x : Reg) : decode (packXNN 0xF#4 x 0x33#8) = .ok (.ldB x) := decode_miscOp x 0x33#8

end Sys2Proof

namespace Sys2Proof.Machine

/-! ### LD I, nnn (R140) -/

theorem exec_ldI_eq (nnn : Addr12) (s : State) :
    exec (.ldI nnn) s = .next ((s.setI (zext16 nnn)).giveReport .advanced) := rfl

/-- What an instruction that only writes I leaves unchanged. -/
theorem keeps_setI (s : State) (w : Word) (r : StepResult) :
    Keeps { index := True } s ((s.setI w).giveReport r) where
  regs _ _ := rfl
  bytes _ _ := rfl
  index h := absurd trivial h
  stack _ := ⟨rfl, rfl⟩
  delay _ := rfl
  sound _ := rfl
  screen _ := rfl
  draw _ := ⟨rfl, rfl⟩
  keys := rfl
  status := rfl

/-! ### A store of several bytes (R43, R47) -/

/-- The state an instruction leaves whose rule is one store of `bytes` from `base` on, all of whose addresses exist. -/
def State.stored (base : Nat) (bytes : List Byte) (s : State) : State :=
  (s.setMem (s.mem.writeAll base bytes)).giveReport .advanced

theorem State.storeAll_of_fits (i : Instr) {base : Nat} {bytes : List Byte} (s : State)
    (h : base + bytes.length ≤ Config.memSize) : s.storeAll i base bytes = .next (s.stored base bytes) := by
  have hr : rangeExists base bytes.length = true := (rangeExists_iff _ _).mpr (.inr h)
  rw [State.storeAll, if_pos hr, State.advanced, State.stored]

/-- R43: where the first address exists and the last does not, the store is rolled back, with 0x1000 as the first
address out of range. -/
theorem State.storeAll_of_beyond (i : Instr) {base : Nat} {bytes : List Byte} (s : State)
    (hbase : base < Config.memSize) (h : Config.memSize < base + bytes.length) :
    s.storeAll i base bytes =
      .next (RolledBack s ⟨.dataOutOfRange, s.pc - 2, some (encode i), some 0x1000⟩) := by
  have hr : ¬ rangeExists base bytes.length = true := by
    rw [rangeExists_iff]
    omega
  rw [State.storeAll, if_neg hr, State.raiseFatal_eq, firstBadAddr_of_lt hbase, State.enterHalted_eq_rolledBack]

/-- R47: the k-th byte stored is read at `base + k`. -/
theorem State.stored_mem_read_add {s : State} {base k : Nat} {bytes : List Byte} (hwf : s.mem.wf = true)
    (h : base + bytes.length ≤ Config.memSize) (hk : k < bytes.length) :
    (s.stored base bytes).mem.read (base + k) = bytes.getD k 0 := by
  rw [State.stored, State.giveReport_mem, State.setMem_mem, Memory.read_writeAll hwf base bytes h,
    if_pos (by omega), Nat.add_sub_cancel_left]

theorem keeps_stored {s : State} {base : Nat} {bytes : List Byte} (hwf : s.mem.wf = true)
    (h : base + bytes.length ≤ Config.memSize) :
    Keeps { bytes := fun a => base ≤ a ∧ a < base + bytes.length } s (s.stored base bytes) where
  regs _ _ := rfl
  bytes a ha := by
    rw [State.stored, State.giveReport_mem, State.setMem_mem, Memory.read_writeAll hwf base bytes h, if_neg ha]
  index _ := rfl
  stack _ := ⟨rfl, rfl⟩
  delay _ := rfl
  sound _ := rfl
  screen _ := rfl
  draw _ := ⟨rfl, rfl⟩
  keys := rfl
  status := rfl

/-! ### LD B, Vx (R143) -/

theorem exec_ldB_eq (x : Reg) (s : State) :
    exec (.ldB x) s = s.storeAll (.ldB x) s.dataBase (bcdDigits (s.getV x)) := rfl

/-- R143: each digit is below 256, so its byte holds it. -/
theorem bcdDigits_toNat (b : Byte) :
    ((bcdDigits b).getD 0 0).toNat = b.toNat / 100 ∧ ((bcdDigits b).getD 1 0).toNat = b.toNat / 10 % 10 ∧
      ((bcdDigits b).getD 2 0).toNat = b.toNat % 10 := by
  have hb : b.toNat < 256 := b.isLt
  simp only [bcdDigits, List.getD_cons_zero, List.getD_cons_succ, BitVec.toNat_ofNat]
  omega

end Sys2Proof.Machine

open Sys2Proof Sys2Proof.Machine

/-- Settles O36: the instruction is one write of I, of nnn zero-extended. -/
theorem setIndex : Obligations.SetIndex :=
  fun nnn s => ⟨decode_ldI nnn, _, exec_ldI_eq nnn s, zext16_toNat nnn, rfl, rfl, keeps_setI s _ _⟩

/-- Settles O39: the instruction is one store of the three digits, which fits or is rolled back. -/
theorem storeBcdDigits : Obligations.StoreBcdDigits := by
  intro x s hwf hi
  obtain ⟨hundreds, tens, units⟩ := bcdDigits_toNat (s.getV x)
  refine ⟨decode_ldB x, fun hin => ?_, fun hout => ?_⟩
  · have hfit : s.dataBase + (bcdDigits (s.getV x)).length ≤ Config.memSize := by
      change s.i.toNat + 3 ≤ 0x1000
      omega
    have hread : ∀ k < 3, (s.stored s.dataBase (bcdDigits (s.getV x))).mem.read (s.dataBase + k) =
        (bcdDigits (s.getV x)).getD k 0 := fun _ hk => State.stored_mem_read_add hwf hfit hk
    refine ⟨_, (exec_ldB_eq x s).trans (State.storeAll_of_fits _ s hfit), ?_, ?_, ?_, rfl, rfl,
      keeps_stored hwf hfit⟩
    · exact (congrArg BitVec.toNat (hread 0 (by decide))).trans hundreds
    · exact (congrArg BitVec.toNat (hread 1 (by decide))).trans tens
    · exact (congrArg BitVec.toNat (hread 2 (by decide))).trans units
  · have hbase : s.i.toNat < 0x1000 := by omega
    have hbeyond : 0x1000 < s.i.toNat + 3 := by omega
    exact (exec_ldB_eq x s).trans (State.storeAll_of_beyond _ s hbase hbeyond)
end

section
/-! PROOFS for 44_display.md: CLS, which unlights every cell (R160), and DRW, which inverts the cells its sprite covers
and reports in VF whether one of them was lit (R161). -/

namespace Sys2Proof.Machine

/-! ### CLS (R160) -/

theorem exec_cls_eq (s : State) : exec .cls s = .next ((s.setFb Framebuffer.clear).giveReport .advanced) := rfl

/-- What an instruction that only writes the framebuffer leaves unchanged. -/
theorem keeps_setFb (s : State) (fb : Framebuffer) (r : StepResult) :
    Keeps { screen := True } s ((s.setFb fb).giveReport r) where
  regs _ _ := rfl
  bytes _ _ := rfl
  index _ := rfl
  stack _ := ⟨rfl, rfl⟩
  delay _ := rfl
  sound _ := rfl
  screen h := absurd trivial h
  draw _ := ⟨rfl, rfl⟩
  keys := rfl
  status := rfl

/-! ### A load of several bytes (R43, R47) -/

/-- R43: where every address exists, and always where no byte is read, the bytes are used. -/
theorem State.loadAll_of_fits (i : Instr) {base n : Nat} (use : List Byte → State → State) (s : State)
    (h : n = 0 ∨ base + n ≤ Config.memSize) :
    s.loadAll i base n use = .next ((use (s.mem.readAll base n) s).giveReport .advanced) := by
  rw [State.loadAll, if_pos ((rangeExists_iff base n).mpr h), State.advanced]

/-! ### What a sprite does to the cells it covers, and the collision (R161) -/

/-- `Covers` is the landing of a lit bit of the bytes DRW reads. -/
theorem covers_iff_lands (s : State) (x y : Reg) (n : Fin 16) (r : Fin 32) (c : Fin 64) :
    Covers s x y n r c ↔
      Drawing.Lands (s.getV x).toNat (s.getV y).toNat 0 (s.mem.readAll s.dataBase n.val) r c := by
  refine exists_congr fun k => exists_congr fun j => ?_
  rw [Memory.length_readAll, Nat.zero_add]
  refine and_congr_right fun hk => ?_
  rw [Memory.getD_readAll _ _ _ _ hk, Fin.ext_iff, Fin.ext_iff]
  rfl

/-- The drawing DRW Vx, Vy, n ends with: FB and the collision. -/
def State.drawing (x y : Reg) (n : Fin 16) (s : State) : Drawing :=
  Drawing.sprite (s.getV x).toNat (s.getV y).toNat 0 (s.mem.readAll s.dataBase n.val) (s.fb, false)

/-- The sprite has at most 15 rows, so no two of them land on one screen row. -/
theorem drawnRows_le (s : State) (n : Fin 16) : 0 + (s.mem.readAll s.dataBase n.val).length ≤ 16 := by
  rw [Memory.length_readAll]
  omega

theorem State.drawing_cell_of_covers {s : State} {x y : Reg} {n : Fin 16} {r : Fin 32} {c : Fin 64}
    (h : Covers s x y n r c) : (s.drawing x y n).1.cell r c = !s.fb.cell r c := by
  obtain ⟨hlit, -, -⟩ := Drawing.sprite_spec _ _ _ 0 (drawnRows_le s n) (s.fb, false)
  exact hlit r c ((covers_iff_lands s x y n r c).mp h)

theorem State.drawing_cell_of_not_covers {s : State} {x y : Reg} {n : Fin 16} {r : Fin 32} {c : Fin 64}
    (h : ¬ Covers s x y n r c) : (s.drawing x y n).1.cell r c = s.fb.cell r c := by
  obtain ⟨-, hunlit, -⟩ := Drawing.sprite_spec _ _ _ 0 (drawnRows_le s n) (s.fb, false)
  exact hunlit r c (mt (covers_iff_lands s x y n r c).mpr h)

theorem State.drawing_collided_iff (s : State) (x y : Reg) (n : Fin 16) :
    (s.drawing x y n).2 = true ↔ ∃ r c, Covers s x y n r c ∧ s.fb.cell r c = true := by
  obtain ⟨-, -, hcoll⟩ := Drawing.sprite_spec (s.getV x).toNat (s.getV y).toNat _ 0 (drawnRows_le s n) (s.fb, false)
  simp only [covers_iff_lands]
  exact hcoll.trans (by simp)

/-! ### DRW Vx, Vy, n (R161) -/

/-- The state DRW Vx, Vy, n leaves where all of its sprite's bytes exist. -/
def State.drew (x y : Reg) (n : Fin 16) (s : State) : State :=
  (s.drawSprite (s.getV x) (s.getV y) (s.mem.readAll s.dataBase n.val)).giveReport .advanced

/-- R161 (decision D11): the sprite's last byte lies at I + n - 1, and with n = 0 it has none. -/
theorem exec_drw_of_fits (x y : Reg) {n : Fin 16} {s : State} (h : n.val = 0 ∨ s.i.toNat + n.val - 1 ≤ 0xFFF) :
    exec (.drw x y n) s = .next (s.drew x y n) := by
  have hfit : n.val = 0 ∨ s.dataBase + n.val ≤ Config.memSize := by
    change n.val = 0 ∨ s.i.toNat + n.val ≤ 0x1000
    omega
  exact State.loadAll_of_fits _ _ s hfit

theorem State.drew_fb (s : State) (x y : Reg) (n : Fin 16) : (s.drew x y n).fb = (s.drawing x y n).1 := rfl

theorem State.drew_getV (s : State) (x y : Reg) (n : Fin 16) (r : Reg) :
    (s.drew x y n).getV r = if r = regF then flagByte (s.drawing x y n).2 else s.getV r :=
  State.drawSprite_getV _ _ _ s r

theorem State.drew_getV_regF_of_hit {s : State} {x y : Reg} {n : Fin 16}
    (h : ∃ r c, Covers s x y n r c ∧ s.fb.cell r c = true) : (s.drew x y n).getV regF = 1 := by
  rw [State.drew_getV, if_pos rfl, (State.drawing_collided_iff s x y n).mpr h]
  rfl

theorem State.drew_getV_regF_of_no_hit {s : State} {x y : Reg} {n : Fin 16}
    (h : ¬ ∃ r c, Covers s x y n r c ∧ s.fb.cell r c = true) : (s.drew x y n).getV regF = 0 := by
  rw [State.drew_getV, if_pos rfl, Bool.eq_false_iff.mpr (mt (State.drawing_collided_iff s x y n).mp h)]
  rfl

/-- DRW writes the framebuffer and VF alone. -/
theorem keeps_drew (s : State) (x y : Reg) (n : Fin 16) :
    Keeps { regs := (· = regF), screen := True } s (s.drew x y n) where
  regs r hr := (State.drew_getV s x y n r).trans (if_neg hr)
  bytes _ _ := rfl
  index _ := rfl
  stack _ := ⟨rfl, rfl⟩
  delay _ := rfl
  sound _ := rfl
  screen h := absurd trivial h
  draw _ := ⟨rfl, rfl⟩
  keys := rfl
  status := rfl

end Sys2Proof.Machine

open Sys2Proof Sys2Proof.Machine

/-- Settles O43: the instruction is one write of the framebuffer, of the clear one, and leaves all else. -/
theorem clearScreen : Obligations.ClearScreen :=
  ⟨by decide, fun s => ⟨_, exec_cls_eq s, Framebuffer.clear_cell, rfl, rfl, keeps_setFb s _ _⟩⟩

/-- Settles O44: the state DRW leaves holds the drawing's cells and, in VF, its collision. -/
theorem drawXorsSprite : Obligations.DrawXorsSprite := by
  intro x y n s hfit
  refine ⟨s.drew x y n, exec_drw_of_fits x y hfit, ?_, ?_, State.drew_getV_regF_of_hit,
    State.drew_getV_regF_of_no_hit, rfl, rfl, keeps_drew s x y n⟩
  · rw [State.drew_fb]
    exact fun _ _ => State.drawing_cell_of_covers
  · rw [State.drew_fb]
    exact fun _ _ => State.drawing_cell_of_not_covers
end

section
/-! PROOFS for 45_timers_keys.md: the three timer instructions, each one write of a register, of DT or of ST (R182,
R184, R185). -/

namespace Sys2Proof

/-! ### The words -/

theorem decode_ldVxDt (x : Reg) : decode (packXNN 0xF#4 x 0x07#8) = .ok (.ldVxDt x) := decode_miscOp x 0x07#8

theorem decode_ldDtVx (x : Reg) : decode (packXNN 0xF#4 x 0x15#8) = .ok (.ldDtVx x) := decode_miscOp x 0x15#8

theorem decode_ldStVx (x : Reg) : decode (packXNN 0xF#4 x 0x18#8) = .ok (.ldStVx x) := decode_miscOp x 0x18#8

end Sys2Proof

namespace Sys2Proof.Machine

/-! ### LD Vx, DT, LD DT, Vx and LD ST, Vx (R182, R184, R185) -/

theorem exec_ldVxDt_eq (x : Reg) (s : State) : exec (.ldVxDt x) s = .next (s.wroteV x s.dt) := rfl

theorem exec_ldDtVx_eq (x : Reg) (s : State) :
    exec (.ldDtVx x) s = .next ((s.setDt (s.getV x)).giveReport .advanced) := rfl

theorem exec_ldStVx_eq (x : Reg) (s : State) :
    exec (.ldStVx x) s = .next ((s.setSt (s.getV x)).giveReport .advanced) := rfl

/-- What an instruction that only writes DT leaves unchanged. -/
theorem keeps_setDt (s : State) (b : Byte) (r : StepResult) :
    Keeps { delay := True } s ((s.setDt b).giveReport r) where
  regs _ _ := rfl
  bytes _ _ := rfl
  index _ := rfl
  stack _ := ⟨rfl, rfl⟩
  delay h := absurd trivial h
  sound _ := rfl
  screen _ := rfl
  draw _ := ⟨rfl, rfl⟩
  keys := rfl
  status := rfl

/-- What an instruction that only writes ST leaves unchanged. -/
theorem keeps_setSt (s : State) (b : Byte) (r : StepResult) :
    Keeps { sound := True } s ((s.setSt b).giveReport r) where
  regs _ _ := rfl
  bytes _ _ := rfl
  index _ := rfl
  stack _ := ⟨rfl, rfl⟩
  delay _ := rfl
  sound h := absurd trivial h
  screen _ := rfl
  draw _ := ⟨rfl, rfl⟩
  keys := rfl
  status := rfl

end Sys2Proof.Machine

open Sys2Proof Sys2Proof.Machine

/-- Settles O50: the read is one write of Vx, of DT, and the other two are one write of DT or of ST, of Vx. -/
theorem timerInstructions : Obligations.TimerInstructions :=
  fun x s => ⟨decode_ldVxDt x, decode_ldDtVx x, decode_ldStVx x,
    ⟨_, exec_ldVxDt_eq x s, State.wroteV_getV_self x s.dt s, rfl, rfl, keeps_wroteV x s.dt s⟩,
    ⟨_, exec_ldDtVx_eq x s, rfl, rfl, rfl, keeps_setDt s _ _⟩,
    ⟨_, exec_ldStVx_eq x s, rfl, rfl, rfl, keeps_setSt s _ _⟩⟩
end

section
/-! PROOFS for 60_exceptions.md: the framebuffer snapshot, which is the flattened vector of rows, so that dividing an
index by the row length gives its row, and leaves its column (R211). -/

namespace Sys2Proof.Machine

/-- R211: the snapshot lists the rows one after another. -/
theorem State.readFramebuffer_eq (s : State) : s.readFramebuffer = s.fb.flatten.toList := by
  simp [State.readFramebuffer, Vector.flatten, Vector.toList_toArray, Function.comp_def]

/-- A cell's place in a list of 32 rows of 64 cells. -/
theorem rowMajor_lt (r : Fin 32) (c : Fin 64) : r.val * 64 + c.val < 32 * 64 := by
  omega

/-- R211: the flattened framebuffer holds FB[r][c] at r*64 + c. -/
theorem Framebuffer.getElem_flatten (fb : Framebuffer) (r : Fin 32) (c : Fin 64) :
    fb.flatten[r.val * 64 + c.val]'(rowMajor_lt r c) = fb.cell r c := by
  have hrow : (r.val * 64 + c.val) / 64 = r.val := by omega
  have hcol : (r.val * 64 + c.val) % 64 = c.val := by omega
  simp only [Vector.getElem_flatten, Framebuffer.cell, Fin.getElem_fin, hrow, hcol]

end Sys2Proof.Machine

open Sys2Proof Sys2Proof.Machine

/-- Settles O53: the snapshot is the flattened framebuffer, of 32 * 64 cells. -/
theorem framebufferIsRowMajor : Obligations.FramebufferIsRowMajor := by
  intro s
  rw [State.readFramebuffer_eq]
  refine ⟨Vector.length_toList, fun r c => ?_⟩
  rw [Vector.getElem?_toList, Vector.getElem?_eq_getElem (rowMajor_lt r c), Framebuffer.getElem_flatten]
end

section
/-! PROOFS for 70_reset_and_hazards.md: a Halted core that has reported its record is at rest. Every port call but Reset
is refused or leaves it as it is but for the supply of draws, and so does a schedule of such calls (R83, R203, R207,
R210, R232; decisions D18 and D22). -/

namespace Sys2Proof.Machine

/-! ### Writes that change nothing -/

@[simp] theorem State.setSupply_setSupply (s : State) (r r' : Option Byte) (n n' : Nat) :
    (s.setSupply r n).setSupply r' n' = s.setSupply r' n' := rfl

/-- R83: to report again what was last reported changes nothing. -/
theorem State.giveReport_eq_self {s : State} {r : StepResult} (h : s.port.report = some r) : s.giveReport r = s := by
  rw [State.giveReport, ← h]

/-! ### A schedule, one call at a time (R208) -/

theorem State.runSchedule_cons_of_next {s t : State} {c : PortCall} (cs : List PortCall) (h : s.serve c = .next t) :
    s.runSchedule (c :: cs) = t.runSchedule cs := by
  simp only [State.runSchedule, h]

theorem State.runSchedule_cons_of_refused {s : State} {c : PortCall} {r : Refusal} (cs : List PortCall)
    (h : s.serve c = .refused r) : s.runSchedule (c :: cs) = s.runSchedule cs := by
  simp only [State.runSchedule, h]

/-! ### A core at rest -/

/-- Halted with the record `f`, and `f` is what the last Step reported (R201, R202). -/
structure State.AtRest (f : FaultRecord) (s : State) : Prop where
  status : s.status = .halted f
  report : s.port.report = some (.fatal f)

theorem State.Inv.atRest {s : State} {f : FaultRecord} (hinv : s.Inv) (hst : s.status = .halted f) : s.AtRest f := by
  obtain ⟨-, -, hreport⟩ := hinv.halted f hst
  exact ⟨hst, hreport⟩

theorem State.AtRest.setSupply {s : State} {f : FaultRecord} (h : s.AtRest f) (r : Option Byte) (n : Nat) :
    (s.setSupply r n).AtRest f := ⟨h.status, h.report⟩

/-- R83: a step of a core at rest is no change. -/
theorem step_of_atRest {s : State} {f : FaultRecord} (h : s.AtRest f) : step s = .next s := by
  simp only [step, h.status, State.stepHalted, State.giveReport_eq_self h.report]

/-- R83, R86: a Step call takes its byte away again, and that is all. -/
theorem State.stepWith_of_atRest {s : State} {f : FaultRecord} (rand : Byte) (h : s.AtRest f) :
    s.stepWith rand = .next (s.setSupply none s.port.draws) := by
  rw [State.stepWith_of_step_eq_next (step_of_atRest (h.setSupply (some rand) s.port.draws)),
    State.setSupply_setSupply, State.setSupply_draws]

/-- R232 (decision D22): a core at rest has stepped, so a Load is refused. -/
theorem State.load_of_atRest {s : State} {f : FaultRecord} (image : List Byte) (h : s.AtRest f) :
    s.load image = .refused .loadAfterStep := by
  simp [State.load, h.report]

/-- R83, R207, R210, R232 (decisions D18 and D22), call by call: a Load is refused, a Step takes its byte away, and
the others are ignored. -/
theorem State.serve_of_atRest {s : State} {f : FaultRecord} {c : PortCall} (h : s.AtRest f) (hc : c ≠ .reset) :
    s.serve c = .refused .loadAfterStep ∨ s.serve c = .next (s.setSupply none s.port.draws) ∨ s.serve c = .next s := by
  cases c with
  | reset => exact absurd rfl hc
  | load image => exact .inl (State.load_of_atRest image h)
  | step rand => exact .inr (.inl (State.stepWith_of_atRest rand h))
  | tick | keyDown k | keyUp k => exact .inr (.inr (congrArg _ (State.whileRunning_halted _ h.status)))

/-- R203: no schedule without a Reset changes anything of a core at rest but the supply of draws. -/
theorem State.runSchedule_of_atRest {f : FaultRecord} {cs : List PortCall} (hreset : .reset ∉ cs) :
    ∀ {s : State}, s.AtRest f → (s.runSchedule cs).setSupply none 0 = s.setSupply none 0 := by
  induction cs with
  | nil => exact fun _ => rfl
  | cons c cs ih =>
    intro s h
    obtain ⟨hc, hcs⟩ := List.ne_and_not_mem_of_not_mem_cons hreset
    obtain hrefused | hstep | hignored := State.serve_of_atRest h hc.symm
    · rw [State.runSchedule_cons_of_refused cs hrefused, ih hcs h]
    · rw [State.runSchedule_cons_of_next cs hstep, ih hcs (h.setSupply none s.port.draws), State.setSupply_setSupply]
    · rw [State.runSchedule_cons_of_next cs hignored, ih hcs h]

end Sys2Proof.Machine

open Sys2Proof Sys2Proof.Machine

/-- Settles O4: a Halted core with the invariant is at rest, so its step, and every schedule of calls that are not
Resets, leaves it as it is; what a Reset leaves is Running. -/
theorem haltedUntilReset : Obligations.HaltedUntilReset := by
  intro s f hinv hst
  have hrest := hinv.atRest hst
  exact ⟨step_of_atRest hrest, rfl, fun _ hreset => State.runSchedule_of_atRest hreset hrest⟩
end

section
/-! PROOFS for 30_encoding.md: the encoder and the decoder are inverse to each other, the decoder accepts exactly the
words R65 selects, and every pattern of R63 decodes to its instruction (decisions D4 and D5). -/

namespace Sys2Proof

/-! ### Decoding an encoded instruction (R61, R63) -/

/-- R65: family E is the nested switch on `nn`. -/
theorem decode_keyOp (x : Reg) (nn : Byte) : decode (packXNN 0xE#4 x nn) = decodeKeyOp x nn := by
  simp [decode, fieldOp_packXNN, fieldX_packXNN, fieldNN_packXNN]

/-- R61, R63: a family with one instruction by the fields of its pattern, a nested family by its switch. -/
theorem decode_encode (i : Instr) : decode (encode i) = .ok i := by
  cases i with
  | cls | ret => rfl
  | jp | call | ldI | jpV0 => simp [encode, decode, fieldOp_packNNN, fieldNNN_packNNN]
  | seImm | sneImm | ldImm | addImm | rnd =>
    simp [encode, decode, fieldOp_packXNN, fieldX_packXNN, fieldNN_packXNN]
  | seReg | sneReg | drw =>
    simp [encode, decode, fieldOp_packXYN, fieldX_packXYN, fieldY_packXYN, fieldN_packXYN]
  | ldReg x y | orReg x y | andReg x y | xorReg x y | addReg x y | subReg x y | shr x y | subnReg x y | shl x y =>
    exact decode_registerOp x y _
  | skp x | sknp x => exact decode_keyOp x _
  | ldVxDt x | ldVxK x | ldDtVx x | ldStVx x | addI x | ldF x | ldB x | storeRegs x | loadRegs x =>
    exact decode_miscOp x _

/-! ### Encoding a decoded word (R60, R63) -/

/-- Families 5 and 9: the low nibble is 0. -/
theorem encode_of_ite_eq_zero {n : BitVec 4} {i j : Instr} {u : Unknown} {op : BitVec 4} {x y : Reg}
    (hi : encode i = packXYN op x y 0#4) (h : (if n = 0#4 then Except.ok i else .error u) = .ok j) :
    encode j = packXYN op x y n := by
  split at h
  case isTrue hn =>
    cases h
    rw [hn, hi]
  case isFalse => cases h

/-- Family 0: the two words it selects. -/
theorem encode_of_ite_cls_ret {w : Word} {i : Instr}
    (h : (if w = 0x00E0#16 then Except.ok Instr.cls
      else if w = 0x00EE#16 then .ok .ret else .error Unknown.zeroFamily) = .ok i) : encode i = w := by
  split at h
  case isTrue hw => cases h; exact hw.symm
  case isFalse =>
    split at h
    case isTrue hw => cases h; exact hw.symm
    case isFalse => cases h

/-- R65, family by family: the fields the decoder has read are the whole of the word. -/
theorem encode_of_decode {w : Word} {i : Instr} (h : decode w = .ok i) : encode i = w := by
  have hlt := (fieldOp w).isLt
  unfold decode at h
  generalize hop : (fieldOp w).toNat = op at h hlt
  match op, hlt with
  | 0x0, _ => exact encode_of_ite_cls_ret h
  | 0x1, _ | 0x2, _ | 0xA, _ | 0xB, _ => cases h; exact packNNN_of_op hop
  | 0x3, _ | 0x4, _ | 0x6, _ | 0x7, _ | 0xC, _ => cases h; exact packXNN_of_op hop
  | 0x5, _ => exact (encode_of_ite_eq_zero (op := 0x5#4) rfl h).trans (packXYN_of_op hop)
  | 0x9, _ => exact (encode_of_ite_eq_zero (op := 0x9#4) rfl h).trans (packXYN_of_op hop)
  | 0x8, _ => exact (encode_of_decodeRegisterOp h).trans (packXYN_of_op hop)
  | 0xD, _ =>
    cases h
    rw [encode, nibbleBits_nibbleNum]
    exact packXYN_of_op hop
  | 0xE, _ => exact (encode_of_decodeKeyOp h).trans (packXNN_of_op hop)
  | 0xF, _ => exact (encode_of_decodeMiscOp h).trans (packXNN_of_op hop)
  | _ + 16, hlt => exact absurd hlt (by omega)

/-- R62: to decode to some instruction is to decode without an error. -/
theorem exists_decode_iff (w : Word) : (∃ i, decode w = .ok i) ↔ (decode w).isOk = true := by
  cases decode w <;> simp [Except.isOk, Except.toBool]

/-! ### The patterns of R63, with their fields written out -/

theorem nibbleBits_toFin (b : BitVec 4) : nibbleBits b.toFin = b := nibbleBits_nibbleNum b

theorem decode_nnn {i : Instr} {op : BitVec 4} {nnn : Addr12} (h : encode i = packNNN op nnn) :
    decode (op ++ nnn) = .ok i := by
  change decode (packNNN op nnn) = .ok i
  rw [← h, decode_encode]

theorem decode_xnn {i : Instr} {op x : BitVec 4} {nn : Byte} (h : encode i = packXNN op x.toFin nn) :
    decode (op ++ x ++ nn) = .ok i := by
  rw [packXNN, nibbleBits_toFin] at h
  rw [← h, decode_encode]

theorem decode_xyn {i : Instr} {op x y n : BitVec 4} (h : encode i = packXYN op x.toFin y.toFin n) :
    decode (op ++ x ++ y ++ n) = .ok i := by
  rw [packXYN, nibbleBits_toFin, nibbleBits_toFin] at h
  rw [← h, decode_encode]

/-- The pattern of DRW, whose `n` is an operand. -/
theorem decode_drw (x y n : BitVec 4) : decode (0xD#4 ++ x ++ y ++ n) = .ok (.drw x.toFin y.toFin n.toFin) :=
  decode_xyn (by rw [encode, nibbleBits_toFin n])

end Sys2Proof

open Sys2Proof

/-- Settles O14, instruction by instruction. -/
theorem decodeOfEncode : Obligations.DecodeOfEncode := decode_encode

/-- Settles O15, family by family of the decoder. -/
theorem encodeOfDecode : Obligations.EncodeOfDecode := fun _ _ => encode_of_decode

/-- Settles O16: the words the decoder accepts are the selected ones. -/
theorem decodeSelectsExactlyTheTable : Obligations.DecodeSelectsExactlyTheTable := by
  intro w
  rw [exists_decode_iff, decode_isOk]

/-- Settles O17: each pattern is the encoding of its instruction. -/
theorem everyPatternDecodes : Obligations.EveryPatternDecodes :=
  ⟨decode_encode .cls, decode_encode .ret,
    fun _ => ⟨decode_nnn rfl, decode_nnn rfl, decode_nnn rfl, decode_nnn rfl⟩,
    fun _ _ => ⟨decode_xnn rfl, decode_xnn rfl, decode_xnn rfl, decode_xnn rfl, decode_xnn rfl⟩,
    fun _ _ => ⟨decode_xyn rfl, decode_xyn rfl, decode_xyn rfl, decode_xyn rfl, decode_xyn rfl, decode_xyn rfl,
      decode_xyn rfl, decode_xyn rfl, decode_xyn rfl, decode_xyn rfl, decode_xyn rfl⟩,
    decode_drw,
    fun _ => ⟨decode_xnn rfl, decode_xnn rfl, decode_xnn rfl, decode_xnn rfl, decode_xnn rfl, decode_xnn rfl,
      decode_xnn rfl, decode_xnn rfl, decode_xnn rfl, decode_xnn rfl, decode_xnn rfl⟩⟩

/-- Settles O18: the words are the encodings of their instructions, and 0xF is no sub-operation of family 8. -/
theorem sampleWordsDecode : Obligations.SampleWordsDecode :=
  ⟨decode_encode .cls, decode_encode (.ldImm 0xA 0x3C), decode_encode (.addImm 0xA 0x05), decode_encode (.call 0x210),
    decode_encode (.subReg 0xF 0x1), decode_encode (.ldB 0x5), decode_encode (.drw 0x0 0x1 0x5),
    decode_encode (.sknp 0x4), rfl⟩
end

section
/-! PROOFS for 10_state.md and 20_memory.md: what Reset leaves (R31), and a byte read after a write (R43, R50). -/

namespace Sys2Proof.Machine

/-! ### The reset state (R31) -/

/-- R31: memory after Reset lists nothing, so every byte is what an unlisted address reads as. -/
theorem reset_mem_read (a : Nat) : State.reset.mem.read a = resetByte font a := rfl

/-- R31: a byte outside the font region is zero. -/
theorem resetByte_outside {f : Config.Font} {a : Nat} (h : a < f.base ∨ f.base + 80 ≤ a) : resetByte f a = 0 := by
  have hout : ¬ (f.base ≤ a ∧ a < f.base + Config.fontSize) := by
    change ¬ (f.base ≤ a ∧ a < f.base + 80)
    omega
  rw [resetByte, if_neg hout]

/-- R31, R32: the k-th byte of the font region is the k-th byte of the font. -/
theorem resetByte_inside {f : Config.Font} {k : Nat} (h : k < 80) : resetByte f (f.base + k) = f.glyphs.getD k 0 := by
  have hin : f.base ≤ f.base + k ∧ f.base + k < f.base + Config.fontSize := by
    change _ ∧ f.base + k < f.base + 80
    omega
  rw [resetByte, if_pos hin, Nat.add_sub_cancel_left]

theorem reset_getV (r : Reg) : State.reset.getV r = 0 := by simp [State.reset, State.getV]

theorem reset_slot (k : Fin 16) : State.reset.slot k = 0 := by simp [State.reset, State.slot]

theorem reset_key (k : Fin 16) : State.reset.key[k] = false := by simp [State.reset]

/-- R23 to R25, R29: the reset state is within the bounds, and Running. -/
theorem reset_inv : State.reset.Inv where
  mem := reset_mem_wf
  index := by decide
  pc := by decide
  returns k := by rw [reset_slot]; decide
  halted _ h := by cases h

end Sys2Proof.Machine

open Sys2Proof Sys2Proof.Machine

/-- Settles O6: every bound is one of a value that Reset writes. -/
theorem resetEstablishesInvariant : Obligations.ResetEstablishesInvariant := reset_inv

/-- Settles O19: a byte written is read back, and the write keeps the form. -/
theorem memoryReadsLastWrite : Obligations.MemoryReadsLastWrite :=
  fun _ a b v hwf ha => ⟨Memory.read_write hwf (Nat.lt_succ_of_le ha) v b, Memory.wf_write hwf a v⟩

/-- Settles O21: memory by the font region, and every other element by its value at Reset. -/
theorem resetValues : Obligations.ResetValues :=
  ⟨fun a ha => (reset_mem_read a).trans (resetByte_outside ha),
    fun _ hk => (reset_mem_read _).trans (resetByte_inside hk),
    reset_getV, rfl, rfl, reset_slot, rfl, rfl, rfl, Framebuffer.clear_cell, reset_key, rfl⟩
end

section
/-! PROOFS for 41_control_flow.md: the two jumps (R101, R107), RET (R100), the skips that compare two registers (R105,
R106), and calls with their returns (property S8). -/

namespace Sys2Proof.Machine

/-! ### The jumps (R101, R107) -/

theorem exec_jp_eq (nnn : Addr12) (s : State) :
    exec (.jp nnn) s = .next ((s.setPc (zext16 nnn)).giveReport .advanced) := rfl

theorem exec_jpV0_eq (nnn : Addr12) (s : State) :
    exec (.jpV0 nnn) s = .next ((s.setPc (offsetTarget nnn (s.getV 0))).giveReport .advanced) := rfl

/-! ### SE Vx, Vy and SNE Vx, Vy (R105, R106) -/

theorem exec_seReg_eq (x y : Reg) (s : State) :
    exec (.seReg x y) s =
      .next ((s.setPc (if s.getV x = s.getV y then s.pc + 2 else s.pc)).giveReport .advanced) := by
  simp only [exec, execSeReg, State.skipIf_eq, beq_iff_eq]

theorem exec_sneReg_eq (x y : Reg) (s : State) :
    exec (.sneReg x y) s =
      .next ((s.setPc (if s.getV x ≠ s.getV y then s.pc + 2 else s.pc)).giveReport .advanced) := by
  simp only [exec, execSneReg, State.skipIf_eq, bne_iff_ne]

/-! ### RET (R100) -/

/-- R100: the state RET leaves when the topmost live slot is slot `k`: SP is `k`, PC is that slot, which keeps its
value (decision D29). -/
def State.returned (k : Fin 16) (s : State) : State :=
  ((s.setStack s.stack k.castSucc).setPc (s.slot k)).giveReport .advanced

theorem exec_ret_of_live {s : State} {k : Fin 16} (h : s.sp.val = k.val + 1) : exec .ret s = .next (s.returned k) := by
  have hpos : 0 < s.sp.val := by omega
  have hk : s.sp.val - 1 = k.val := by omega
  simp only [exec, execRet, dif_pos hpos, hk, State.advanced, State.returned]
  rfl

theorem exec_ret_of_empty {s : State} (h : s.sp.val = 0) :
    exec .ret s = .next (RolledBack s ⟨.stackUnderflow, s.pc - 2, some 0x00EE, none⟩) := by
  have hempty : ¬ 0 < s.sp.val := by omega
  simp only [exec, execRet, dif_neg hempty, State.raiseFatal_eq, State.enterHalted_eq_rolledBack, encode]
  rfl

/-! ### Calls and their returns (S8) -/

/-- Frames compose. -/
theorem Keeps.trans {c : Changes} {s t u : State} (h : Keeps c s t) (h' : Keeps c t u) : Keeps c s u where
  regs r hr := (h'.regs r hr).trans (h.regs r hr)
  bytes a ha := (h'.bytes a ha).trans (h.bytes a ha)
  index hc := (h'.index hc).trans (h.index hc)
  stack hc := ⟨(h'.stack hc).1.trans (h.stack hc).1, (h'.stack hc).2.trans (h.stack hc).2⟩
  delay hc := (h'.delay hc).trans (h.delay hc)
  sound hc := (h'.sound hc).trans (h.sound hc)
  screen hc := (h'.screen hc).trans (h.screen hc)
  draw hc := ⟨(h'.draw hc).1.trans (h.draw hc).1, (h'.draw hc).2.trans (h.draw hc).2⟩
  keys := h'.keys.trans h.keys
  status := h'.status.trans h.status

theorem execAll_cons_of_next {i : Instr} {is : List Instr} {s t : State} (h : exec i s = .next t) :
    execAll (i :: is) s = execAll is t := by
  simp only [execAll, h]

theorem execAll_append_of_some {is js : List Instr} {s t : State} (h : execAll is s = some t) :
    execAll (is ++ js) s = execAll js t := by
  induction is generalizing s with
  | nil => cases h; rfl
  | cons i is ih =>
    cases hi : exec i s with
    | next u =>
      rw [execAll_cons_of_next hi] at h
      rw [List.cons_append, execAll_cons_of_next hi, ih h]
    | fault r => simp [execAll, hi] at h
    | refused r => simp [execAll, hi] at h

/-- The calls of a list of targets and then as many returns. -/
def callsThenReturns (targets : List Addr12) : List Instr :=
  targets.map .call ++ List.replicate targets.length .ret

/-- One more target is a call before, and a return after. -/
theorem callsThenReturns_cons (a : Addr12) (targets : List Addr12) :
    callsThenReturns (a :: targets) = .call a :: (callsThenReturns targets ++ [.ret]) := by
  simp [callsThenReturns, List.replicate_succ']

/-- S8, with what makes the induction go through: the slots that were live at the start are kept, so each return pops
what its call pushed. -/
theorem callsThenReturns_restore (targets : List Addr12) :
    ∀ s : State, s.sp.val + targets.length ≤ 16 →
      ∃ t, execAll (callsThenReturns targets) s = some t ∧ t.pc = s.pc ∧ t.sp = s.sp ∧
        (∀ k : Fin 16, k.val < s.sp.val → t.slot k = s.slot k) ∧ Keeps { stack := True } s t := by
  induction targets with
  | nil => exact fun s _ => ⟨s, rfl, rfl, rfl, fun _ _ => rfl, by constructor <;> simp⟩
  | cons a targets ih =>
    intro s hroom
    rw [List.length_cons] at hroom
    have hfree : s.sp.val < 16 := by omega
    have hsp : (s.called a hfree).sp.val = s.sp.val + 1 := rfl
    obtain ⟨t, ht, -, htsp, htslot, htkeeps⟩ := ih (s.called a hfree) (by omega)
    have hlive : t.sp.val = s.sp.val + 1 := by rw [htsp, hsp]
    have hpushed : t.slot ⟨s.sp.val, hfree⟩ = s.pc := by
      rw [htslot ⟨s.sp.val, hfree⟩ (hsp ▸ Nat.lt_succ_self _), State.called_slot, if_pos rfl]
    refine ⟨t.returned ⟨s.sp.val, hfree⟩, ?_, hpushed, rfl, fun k hk => ?_, ?_⟩
    · have hret := execAll_cons_of_next (is := []) (exec_ret_of_live (s := t) (k := ⟨s.sp.val, hfree⟩) hlive)
      rw [callsThenReturns_cons, execAll_cons_of_next (exec_call_of_lt a hfree), execAll_append_of_some ht, hret]
      rfl
    · change t.slot k = s.slot k
      rw [htslot k (by omega), State.called_slot, if_neg (by omega)]
    · have hcall := keeps_setStack_setPc s (s.stack.set s.sp.val s.pc) ⟨s.sp.val + 1, by omega⟩ (zext16 a) .advanced
      exact (hcall.trans htkeeps).trans (keeps_setStack_setPc t _ _ _ _)

end Sys2Proof.Machine

open Sys2Proof Sys2Proof.Machine

/-- Settles O22: the jump is one write of PC. -/
theorem jumpSetsPc : Obligations.JumpSetsPc :=
  fun nnn s => ⟨_, exec_jp_eq nnn s, zext16_toNat nnn, rfl, keeps_setPc {} s _ _⟩

/-- Settles O24: with a live slot the state is `State.returned`, and with none the step is rolled back. -/
theorem retPopsReturnAddress : Obligations.RetPopsReturnAddress :=
  fun s => ⟨fun k h => ⟨s.returned k, exec_ret_of_live h, rfl, rfl, rfl, rfl, keeps_setStack_setPc s _ _ _ _⟩,
    exec_ret_of_empty⟩

/-- Settles O26: each skip is a write of PC by its condition, and leaves all else. -/
theorem skipOnRegisters : Obligations.SkipOnRegisters :=
  fun x y s => ⟨⟨_, exec_seReg_eq x y s, rfl, rfl, keeps_setPc {} s _ _⟩,
    ⟨_, exec_sneReg_eq x y s, rfl, rfl, keeps_setPc {} s _ _⟩⟩

/-- Settles O27: the jump is one write of PC, of a sum that 16 bits hold. -/
theorem jumpWithOffset : Obligations.JumpWithOffset :=
  fun nnn s => ⟨_, exec_jpV0_eq nnn s, offsetTarget_toNat nnn (s.getV 0), rfl, keeps_setPc {} s _ _⟩

/-- Settles O28, by induction on the list of targets. -/
theorem nestedCallsReturn : Obligations.NestedCallsReturn := by
  intro targets s hroom
  obtain ⟨t, ht, hpc, hsp, -, hkeeps⟩ := callsThenReturns_restore targets s hroom
  exact ⟨t, ht, hpc, hsp, hkeeps⟩
end

section
/-! PROOFS for 42_alu.md: the logic operations (R123 to R125), the sum and the differences with their flag written last
(R126, R127, R129), the shifts with their result written last (R128, R130), and the random byte (R131). -/

namespace Sys2Proof.Machine

/-! ### Instructions that write general registers alone -/

/-- What an instruction leaves unchanged that writes no more than the registers `P` lets it. -/
theorem keeps_withV {P : Reg → Prop} {s : State} {v : Vector Byte 16} (h : ∀ r, ¬ P r → v[r] = s.getV r)
    (r : StepResult) : Keeps { regs := P } s ((s.withV v).giveReport r) where
  regs := h
  bytes _ _ := rfl
  index _ := rfl
  stack _ := ⟨rfl, rfl⟩
  delay _ := rfl
  sound _ := rfl
  screen _ := rfl
  draw _ := ⟨rfl, rfl⟩
  keys := rfl
  status := rfl

/-! ### A result and then its flag (R126, R127, R129) -/

theorem State.resultThenFlag_getV_of_ne {x r : Reg} (result flag : Byte) (s : State) (h : ¬ (r = x ∨ r = regF)) :
    (s.resultThenFlag x result flag).getV r = s.getV r := by
  obtain ⟨hx, hF⟩ := not_or.mp h
  rw [State.resultThenFlag_getV, if_neg hF, if_neg hx]

theorem keeps_resultThenFlag (x : Reg) (result flag : Byte) (s : State) :
    Keeps { regs := fun r => r = x ∨ r = regF } s ((s.resultThenFlag x result flag).giveReport .advanced) :=
  keeps_withV (v := (s.resultThenFlag x result flag).v)
    (fun _ => State.resultThenFlag_getV_of_ne result flag s) .advanced

/-- Where the destination is not VF, it holds the result. -/
theorem State.resultThenFlag_getV_dest {x : Reg} (hx : x ≠ regF) (result flag : Byte) (s : State) :
    (s.resultThenFlag x result flag).getV x = result := by
  rw [State.resultThenFlag_getV, if_neg hx, if_pos rfl]

/-- VF holds the flag, also where it is the destination (decision D6). -/
theorem State.resultThenFlag_getV_regF (x : Reg) (result flag : Byte) (s : State) :
    (s.resultThenFlag x result flag).getV regF = flag := by
  rw [State.resultThenFlag_getV, if_pos rfl]

theorem carryFlag_eq (a b : Byte) : carryFlag a b = if a.toNat + b.toNat > 255 then 1 else 0 := by
  simp only [carryFlag, flagByte, decide_eq_true_eq]

theorem noBorrowFlag_eq (a b : Byte) : noBorrowFlag a b = if a.toNat ≥ b.toNat then 1 else 0 := by
  simp only [noBorrowFlag, flagByte, decide_eq_true_eq, ge_iff_le]

/-- R132: a difference is taken modulo 256. -/
theorem byte_sub_toNat (a b : Byte) : (a - b).toNat = (a.toNat + 256 - b.toNat) % 256 := by
  have := b.isLt
  rw [BitVec.toNat_sub]
  omega

theorem exec_addReg_eq (x y : Reg) (s : State) :
    exec (.addReg x y) s = .next
      ((s.resultThenFlag x (s.getV x + s.getV y) (carryFlag (s.getV x) (s.getV y))).giveReport .advanced) := rfl

theorem exec_subReg_eq (x y : Reg) (s : State) :
    exec (.subReg x y) s = .next
      ((s.resultThenFlag x (s.getV x - s.getV y) (noBorrowFlag (s.getV x) (s.getV y))).giveReport .advanced) := rfl

theorem exec_subnReg_eq (x y : Reg) (s : State) :
    exec (.subnReg x y) s = .next
      ((s.resultThenFlag x (s.getV y - s.getV x) (noBorrowFlag (s.getV y) (s.getV x))).giveReport .advanced) := rfl

/-! ### A flag and then its result (R128, R130) -/

theorem State.flagThenResult_getV_of_ne {x r : Reg} (flag result : Byte) (s : State) (h : ¬ (r = x ∨ r = regF)) :
    (s.flagThenResult x flag result).getV r = s.getV r := by
  obtain ⟨hx, hF⟩ := not_or.mp h
  rw [State.flagThenResult_getV, if_neg hx, if_neg hF]

theorem keeps_flagThenResult (x : Reg) (flag result : Byte) (s : State) :
    Keeps { regs := fun r => r = x ∨ r = regF } s ((s.flagThenResult x flag result).giveReport .advanced) :=
  keeps_withV (v := (s.flagThenResult x flag result).v)
    (fun _ => State.flagThenResult_getV_of_ne flag result s) .advanced

/-- The destination holds the result, also where it is VF. -/
theorem State.flagThenResult_getV_dest (x : Reg) (flag result : Byte) (s : State) :
    (s.flagThenResult x flag result).getV x = result := by
  rw [State.flagThenResult_getV, if_pos rfl]

/-- Where the destination is not VF, VF holds the flag. -/
theorem State.flagThenResult_getV_regF {x : Reg} (hx : x ≠ regF) (flag result : Byte) (s : State) :
    (s.flagThenResult x flag result).getV regF = flag := by
  rw [State.flagThenResult_getV, if_neg hx.symm, if_pos rfl]

/-- R128: the byte shifted right, and bit 0. -/
theorem shiftRight_toNat (b : Byte) : (b >>> 1).toNat = b.toNat / 2 ∧ (outRight b).toNat = b.toNat % 2 := by
  constructor
  · rw [BitVec.toNat_ushiftRight, Nat.shiftRight_eq_div_pow, Nat.pow_one]
  · rw [outRight, BitVec.toNat_and]
    exact Nat.and_one_is_mod _

/-- R130: the byte shifted left, and bit 7. -/
theorem shiftLeft_toNat (b : Byte) : (b <<< 1).toNat = b.toNat * 2 % 256 ∧ (outLeft b).toNat = b.toNat / 128 := by
  have hb : b.toNat < 256 := b.isLt
  constructor
  · rw [BitVec.toNat_shiftLeft, Nat.shiftLeft_eq, Nat.pow_one]
  · have hbit : (outLeft b).toNat = b.toNat / 128 % 2 := by
      rw [outLeft, BitVec.toNat_and, BitVec.toNat_ushiftRight, Nat.shiftRight_eq_div_pow]
      exact Nat.and_one_is_mod _
    omega

theorem exec_shr_eq (x y : Reg) (s : State) :
    exec (.shr x y) s = .next
      ((s.flagThenResult x (outRight (s.getV x)) (s.getV x >>> 1)).giveReport .advanced) := rfl

theorem exec_shl_eq (x y : Reg) (s : State) :
    exec (.shl x y) s = .next
      ((s.flagThenResult x (outLeft (s.getV x)) (s.getV x <<< 1)).giveReport .advanced) := rfl

/-! ### OR, AND and XOR (R123 to R125) -/

theorem exec_orReg_eq (x y : Reg) (s : State) :
    exec (.orReg x y) s = .next (s.wroteV x (s.getV x ||| s.getV y)) := rfl

theorem exec_andReg_eq (x y : Reg) (s : State) :
    exec (.andReg x y) s = .next (s.wroteV x (s.getV x &&& s.getV y)) := rfl

theorem exec_xorReg_eq (x y : Reg) (s : State) :
    exec (.xorReg x y) s = .next (s.wroteV x (s.getV x ^^^ s.getV y)) := rfl

/-! ### RND Vx, nn (R131) -/

/-- R131, R212: the draw is the byte the Step port holds, and where it holds none the free draw. -/
theorem State.draw_eq_of_rand {s : State} {b : Byte} (h : s.port.rand = some b) : s.draw = b := by
  rw [State.draw, h, Option.getD_some]

theorem State.draw_eq_of_no_rand {s : State} (h : s.port.rand = none) : s.draw = Config.freeRand s.port.draws := by
  rw [State.draw, h, Option.getD_none]

/-- The state RND leaves: Vx holds the masked draw, and the draw is used. -/
def State.drewRand (x : Reg) (nn : Byte) (s : State) : State :=
  ((s.setV x (s.draw &&& nn)).setSupply none (s.port.draws + 1)).giveReport .advanced

theorem State.drewRand_getV_self (x : Reg) (nn : Byte) (s : State) : (s.drewRand x nn).getV x = s.draw &&& nn := by
  rw [State.drewRand, State.giveReport_getV, State.setSupply_getV, State.setV_getV, if_pos rfl]

theorem keeps_drewRand (x : Reg) (nn : Byte) (s : State) :
    Keeps { regs := (· = x), draw := True } s (s.drewRand x nn) where
  regs r hr := by
    rw [State.drewRand, State.giveReport_getV, State.setSupply_getV, State.setV_getV, if_neg (show r ≠ x from hr)]
  bytes _ _ := rfl
  index _ := rfl
  stack _ := ⟨rfl, rfl⟩
  delay _ := rfl
  sound _ := rfl
  screen _ := rfl
  draw h := absurd trivial h
  keys := rfl
  status := rfl

end Sys2Proof.Machine

open Sys2Proof Sys2Proof.Machine

/-- Settles O31: each instruction is one write of Vx, and leaves all else. -/
theorem logicOperations : Obligations.LogicOperations :=
  fun x y s =>
    ⟨⟨_, exec_orReg_eq x y s, State.wroteV_getV_self x _ s, rfl, rfl, keeps_wroteV x _ s⟩,
      ⟨_, exec_andReg_eq x y s, State.wroteV_getV_self x _ s, rfl, rfl, keeps_wroteV x _ s⟩,
      ⟨_, exec_xorReg_eq x y s, State.wroteV_getV_self x _ s, rfl, rfl, keeps_wroteV x _ s⟩⟩

/-- Settles O32: the sum is written first, and the carry last. -/
theorem addWithCarry : Obligations.AddWithCarry :=
  fun x y s => ⟨_, exec_addReg_eq x y s,
    fun hx => (congrArg BitVec.toNat (State.resultThenFlag_getV_dest hx _ _ s)).trans (BitVec.toNat_add _ _),
    (State.resultThenFlag_getV_regF x _ _ s).trans (carryFlag_eq _ _), rfl, rfl, keeps_resultThenFlag x _ _ s⟩

/-- Settles O33: the difference is written first, and the flag last. -/
theorem subtractWithNoBorrow : Obligations.SubtractWithNoBorrow :=
  fun x y s =>
    ⟨⟨_, exec_subReg_eq x y s,
        fun hx => (congrArg BitVec.toNat (State.resultThenFlag_getV_dest hx _ _ s)).trans (byte_sub_toNat _ _),
        (State.resultThenFlag_getV_regF x _ _ s).trans (noBorrowFlag_eq _ _), rfl, rfl, keeps_resultThenFlag x _ _ s⟩,
      ⟨_, exec_subnReg_eq x y s,
        fun hx => (congrArg BitVec.toNat (State.resultThenFlag_getV_dest hx _ _ s)).trans (byte_sub_toNat _ _),
        (State.resultThenFlag_getV_regF x _ _ s).trans (noBorrowFlag_eq _ _), rfl, rfl, keeps_resultThenFlag x _ _ s⟩⟩

/-- Settles O34: the bit shifted out is written first, and the result last. -/
theorem shiftByOne : Obligations.ShiftByOne := by
  intro x y s
  obtain ⟨hright, houtRight⟩ := shiftRight_toNat (s.getV x)
  obtain ⟨hleft, houtLeft⟩ := shiftLeft_toNat (s.getV x)
  exact
    ⟨⟨_, exec_shr_eq x y s, (congrArg BitVec.toNat (State.flagThenResult_getV_dest x _ _ s)).trans hright,
        fun hx => (congrArg BitVec.toNat (State.flagThenResult_getV_regF hx _ _ s)).trans houtRight,
        rfl, rfl, keeps_flagThenResult x _ _ s⟩,
      ⟨_, exec_shl_eq x y s, (congrArg BitVec.toNat (State.flagThenResult_getV_dest x _ _ s)).trans hleft,
        fun hx => (congrArg BitVec.toNat (State.flagThenResult_getV_regF hx _ _ s)).trans houtLeft,
        rfl, rfl, keeps_flagThenResult x _ _ s⟩⟩

/-- Settles O35: Vx holds the masked draw, which is the port's byte or, without one, the free draw. -/
theorem randomByteMasked : Obligations.RandomByteMasked := by
  intro x nn s
  refine ⟨s.drewRand x nn, exec_rnd_eq x nn s, fun rand h => ?_, fun h => ?_, rfl, rfl, rfl, rfl,
    keeps_drewRand x nn s⟩
  · rw [State.drewRand_getV_self, State.draw_eq_of_rand h]
  · rw [State.drewRand_getV_self, State.draw_eq_of_no_rand h]
end

section
/-! PROOFS for 43_index_memory.md: ADD I, Vx and LD F, Vx (R141, R142), LD [I], Vx and LD Vx, [I] with what they do one
after the other (R144, R145), and a stored instruction that is fetched (20_memory.md R53). -/

namespace Sys2Proof.Machine

/-! ### ADD I, Vx and LD F, Vx (R141, R142) -/

theorem exec_addI_eq (x : Reg) (s : State) :
    exec (.addI x) s = .next ((s.setI (indexSum s.i (s.getV x))).giveReport .advanced) := rfl

theorem exec_ldF_eq (x : Reg) (s : State) :
    exec (.ldF x) s = .next ((s.setI (glyphAddress font (s.getV x))).giveReport .advanced) := rfl

/-- R23: LD F, Vx leaves no more than 0x6AB in I, whatever the font base. -/
theorem glyphAddress_le {f : Config.Font} (h : f.legal = true) (vx : Byte) : (glyphAddress f vx).toNat ≤ 0x6AB := by
  have hvx : vx.toNat < 256 := vx.isLt
  have hbase : f.base + 80 ≤ 0x200 := by
    simp only [Config.Font.legal, Bool.and_eq_true, decide_eq_true_eq] at h
    exact h.1
  rw [glyphAddress_toNat h]
  omega

/-! ### LD [I], Vx (R144) -/

/-- The state LD [I], Vx leaves where all of its bytes exist. -/
def State.dumped (x : Reg) (s : State) : State := s.stored s.dataBase (s.regsThrough x)

theorem regsThrough_fit {x : Reg} {s : State} (h : s.i.toNat + x.val ≤ 0xFFF) :
    s.dataBase + (s.regsThrough x).length ≤ Config.memSize := by
  rw [State.length_regsThrough]
  change s.i.toNat + (x.val + 1) ≤ 0x1000
  omega

theorem exec_storeRegs_of_fits {x : Reg} {s : State} (h : s.i.toNat + x.val ≤ 0xFFF) :
    exec (.storeRegs x) s = .next (s.dumped x) := State.storeAll_of_fits _ s (regsThrough_fit h)

theorem exec_storeRegs_of_beyond {x : Reg} {s : State} (hi : s.i.toNat ≤ 0xFFF) (h : s.i.toNat + x.val > 0xFFF) :
    exec (.storeRegs x) s =
      .next (RolledBack s ⟨.dataOutOfRange, s.pc - 2, some (packXNN 0xF#4 x 0x55#8), some 0x1000⟩) := by
  refine State.storeAll_of_beyond (.storeRegs x) s (Nat.lt_succ_of_le hi) ?_
  rw [State.length_regsThrough]
  change 0x1000 < s.i.toNat + (x.val + 1)
  omega

/-- R144: Vk is stored at I + k. -/
theorem State.dumped_mem_read_add {x k : Reg} {s : State} (hwf : s.mem.wf = true) (h : s.i.toNat + x.val ≤ 0xFFF)
    (hk : k.val ≤ x.val) : (s.dumped x).mem.read (s.dataBase + k.val) = s.getV k := by
  have hlt : k.val < (s.regsThrough x).length := by
    rw [State.length_regsThrough]
    omega
  rw [State.dumped, State.stored_mem_read_add hwf (regsThrough_fit h) hlt, State.getD_regsThrough s x k hk]

theorem keeps_dumped {x : Reg} {s : State} (hwf : s.mem.wf = true) (h : s.i.toNat + x.val ≤ 0xFFF) :
    Keeps { bytes := fun a => s.dataBase ≤ a ∧ a ≤ s.dataBase + x.val } s (s.dumped x) := by
  rw [State.dumped]
  simpa only [State.length_regsThrough, ← Nat.add_assoc, Nat.lt_succ_iff] using keeps_stored hwf (regsThrough_fit h)

/-! ### LD Vx, [I] (R145) -/

/-- R43: where the first address exists and the last does not, a load is rolled back, with 0x1000 as the first address
out of range. -/
theorem State.loadAll_of_beyond (i : Instr) {base n : Nat} (use : List Byte → State → State) (s : State)
    (hbase : base < Config.memSize) (h : Config.memSize < base + n) :
    s.loadAll i base n use =
      .next (RolledBack s ⟨.dataOutOfRange, s.pc - 2, some (encode i), some 0x1000⟩) := by
  have hr : ¬ rangeExists base n = true := by
    rw [rangeExists_iff]
    omega
  rw [State.loadAll, if_neg hr, State.raiseFatal_eq, firstBadAddr_of_lt hbase, State.enterHalted_eq_rolledBack]

/-- The state LD Vx, [I] leaves where all of its bytes exist. -/
def State.loaded (x : Reg) (s : State) : State :=
  (s.setRegsThrough x (s.mem.readAll s.dataBase (x.val + 1))).giveReport .advanced

theorem exec_loadRegs_of_fits {x : Reg} {s : State} (h : s.i.toNat + x.val ≤ 0xFFF) :
    exec (.loadRegs x) s = .next (s.loaded x) := by
  have hfit : s.dataBase + (x.val + 1) ≤ Config.memSize := by
    change s.i.toNat + (x.val + 1) ≤ 0x1000
    omega
  exact State.loadAll_of_fits (.loadRegs x) _ s (.inr hfit)

theorem exec_loadRegs_of_beyond {x : Reg} {s : State} (hi : s.i.toNat ≤ 0xFFF) (h : s.i.toNat + x.val > 0xFFF) :
    exec (.loadRegs x) s =
      .next (RolledBack s ⟨.dataOutOfRange, s.pc - 2, some (packXNN 0xF#4 x 0x65#8), some 0x1000⟩) := by
  refine State.loadAll_of_beyond (.loadRegs x) _ s (Nat.lt_succ_of_le hi) ?_
  change 0x1000 < s.i.toNat + (x.val + 1)
  omega

/-- R145: Vk takes the byte at I + k, for k up to x. -/
theorem State.loaded_getV (x : Reg) (s : State) (k : Reg) :
    (s.loaded x).getV k = if k.val ≤ x.val then s.mem.read (s.dataBase + k.val) else s.getV k := by
  rw [State.loaded, State.giveReport_getV, State.setRegsThrough_getV]
  split
  case isTrue hk => exact Memory.getD_readAll _ _ _ _ (Nat.lt_succ_of_le hk)
  case isFalse => rfl

theorem keeps_loaded (x : Reg) (s : State) : Keeps { regs := fun r => r.val ≤ x.val } s (s.loaded x) :=
  keeps_withV (v := (s.loaded x).v) (fun r hr => (State.loaded_getV x s r).trans (if_neg hr)) .advanced

/-! ### An instruction stored where PC points (R53) -/

/-- R44, R144: LD [I], V1 with I at PC makes V0 and V1 the word the next fetch reads. -/
theorem State.dumped_fetchWord {s : State} (hwf : s.mem.wf = true) (h : s.i.toNat + 1 ≤ 0xFFF)
    (hpc : s.dataBase = s.pc.toNat) : (s.dumped 1).fetchWord = wordOf (s.getV 0) (s.getV 1) := by
  have hhi := State.dumped_mem_read_add (x := 1) (k := 0) hwf h (by decide)
  have hlo := State.dumped_mem_read_add (x := 1) (k := 1) hwf h (by decide)
  rw [hpc] at hhi hlo
  exact congrArg₂ wordOf hhi hlo

end Sys2Proof.Machine

open Sys2Proof Sys2Proof.Machine

/-- Settles O37: the instruction is one write of I. -/
theorem addToIndex : Obligations.AddToIndex :=
  fun x s => ⟨_, exec_addI_eq x s, indexSum_toNat s.i (s.getV x), rfl, rfl, keeps_setI s _ _⟩

/-- Settles O38: the instruction is one write of I, and a glyph of a legal font lies below 0x6AC. -/
theorem fontCharacter : Obligations.FontCharacter :=
  ⟨fun x s => ⟨_, exec_ldF_eq x s, glyphAddress_toNat font_legal (s.getV x), rfl, rfl, keeps_setI s _ _⟩,
    fun _ vx h => ⟨glyphAddress_toNat h vx, glyphAddress_le h vx⟩⟩

/-- Settles O40: the instruction is one store of V0..Vx, which fits or is rolled back. -/
theorem dumpRegisters : Obligations.DumpRegisters :=
  fun x s hwf hi => ⟨fun h => ⟨s.dumped x, exec_storeRegs_of_fits h, fun _ => State.dumped_mem_read_add hwf h, rfl, rfl,
    keeps_dumped hwf h⟩, exec_storeRegs_of_beyond hi⟩

/-- Settles O41: the instruction is one load of V0..Vx, which fits or is rolled back. -/
theorem loadRegisters : Obligations.LoadRegisters :=
  fun x s hi => ⟨fun h => ⟨s.loaded x, exec_loadRegs_of_fits h,
    fun k hk => (State.loaded_getV x s k).trans (if_pos hk), rfl, rfl, keeps_loaded x s⟩, exec_loadRegs_of_beyond hi⟩

/-- Settles O42: the load reads back, at the same I, the bytes that were stored. -/
theorem dumpThenLoadRestores : Obligations.DumpThenLoadRestores := by
  intro x s t v hwf hfit hdump
  rw [exec_storeRegs_of_fits hfit] at hdump
  cases hdump
  refine ⟨((s.dumped x).withV v).loaded x, exec_loadRegs_of_fits hfit, fun k => ?_, rfl⟩
  rw [State.loaded_getV]
  exact if_ctx_congr Iff.rfl (State.dumped_mem_read_add hwf hfit) (fun _ => rfl)

/-- Settles O20: the word the dump leaves at PC is the instruction's, so the next step runs it. -/
theorem storedInstructionIsFetched : Obligations.StoredInstructionIsFetched := by
  intro s i hwf hrun hfit hpc hword
  rw [← State.dumped_fetchWord hwf hfit hpc] at hword
  refine ⟨s.dumped 1, exec_storeRegs_of_fits hfit, rfl, step_of_decode_ok hrun ?_ hword⟩
  exact hpc ▸ hfit
end

section
/-! PROOFS for 44_display.md, beyond one draw that fits: a sprite that reaches beyond memory (R43), the collision as
the unlighting of a cell, and a second draw of the same sprite (R162). -/

namespace Sys2Proof.Machine

/-- R43: a sprite whose first byte exists and whose last does not is rolled back. -/
theorem exec_drw_of_beyond {x y : Reg} {n : Fin 16} {s : State} (hi : s.i.toNat ≤ 0xFFF)
    (h : s.i.toNat + n.val - 1 > 0xFFF) :
    exec (.drw x y n) s = .next (RolledBack s
      ⟨.dataOutOfRange, s.pc - 2, some (packXYN 0xD#4 x y (BitVec.ofNat 4 n.val)), some 0x1000⟩) := by
  refine State.loadAll_of_beyond (.drw x y n) _ s (Nat.lt_succ_of_le hi) ?_
  change 0x1000 < s.i.toNat + n.val
  omega

/-- A DRW after which the core is Running had all of its sprite's bytes, and has drawn. -/
theorem eq_drew_of_running {x y : Reg} {n : Fin 16} {s t : State} (h : exec (.drw x y n) s = .next t)
    (hrun : t.status = .running) : (n.val = 0 ∨ s.i.toNat + n.val - 1 ≤ 0xFFF) ∧ t = s.drew x y n := by
  have hfit : n.val = 0 ∨ s.i.toNat + n.val - 1 ≤ 0xFFF := by
    obtain ⟨hrange, -⟩ | ⟨-, hhalt⟩ :=
      State.loadAll_cases (.drw x y n) s.dataBase n.val (State.drawSprite (s.getV x) (s.getV y)) s
    · have hbytes : n.val = 0 ∨ s.i.toNat + n.val ≤ 0x1000 := (rangeExists_iff _ _).mp hrange
      omega
    · cases h.symm.trans hhalt
      cases hrun
  rw [exec_drw_of_fits x y hfit] at h
  cases h
  exact ⟨hfit, rfl⟩

/-- R161: a draw flips the cells its sprite covers, and those alone. -/
theorem State.drew_cell_of_covers {s : State} {x y : Reg} {n : Fin 16} {r : Fin 32} {c : Fin 64}
    (h : Covers s x y n r c) : (s.drew x y n).fb.cell r c = !s.fb.cell r c := by
  rw [State.drew_fb, State.drawing_cell_of_covers h]

theorem State.drew_cell_of_not_covers {s : State} {x y : Reg} {n : Fin 16} {r : Fin 32} {c : Fin 64}
    (h : ¬ Covers s x y n r c) : (s.drew x y n).fb.cell r c = s.fb.cell r c := by
  rw [State.drew_fb, State.drawing_cell_of_not_covers h]

/-- R162, first sentence: some lit cell is unlit by the draw exactly when the sprite covers a lit cell. -/
theorem State.drew_unlights_iff (s : State) (x y : Reg) (n : Fin 16) :
    (∃ r c, s.fb.cell r c = true ∧ (s.drew x y n).fb.cell r c = false) ↔
      ∃ r c, Covers s x y n r c ∧ s.fb.cell r c = true := by
  refine exists_congr fun r => exists_congr fun c => ?_
  by_cases hcov : Covers s x y n r c
  · simp [State.drew_cell_of_covers hcov, hcov]
  · simp [State.drew_cell_of_not_covers hcov, hcov]

/-! ### A second draw (R162) -/

/-- The state between the two draws: what the first has left, with the registers restored. -/
def State.redrawn (x y : Reg) (n : Fin 16) (s : State) : State := (s.drew x y n).withV s.v

/-- The second draw covers the cells of the first: it reads the same registers, I and bytes. -/
theorem State.redrawn_covers_iff (s : State) (x y : Reg) (n : Fin 16) (r : Fin 32) (c : Fin 64) :
    Covers (s.redrawn x y n) x y n r c ↔ Covers s x y n r c := Iff.rfl

/-- R162: what is flipped twice is as it was. -/
theorem State.redrawn_drew_fb (s : State) (x y : Reg) (n : Fin 16) : ((s.redrawn x y n).drew x y n).fb = s.fb := by
  refine Framebuffer.ext fun r c => ?_
  by_cases hcov : Covers s x y n r c
  · rw [State.drew_cell_of_covers ((s.redrawn_covers_iff x y n r c).mpr hcov)]
    exact (congrArg _ (State.drew_cell_of_covers hcov)).trans (Bool.not_not _)
  · rw [State.drew_cell_of_not_covers (mt (s.redrawn_covers_iff x y n r c).mp hcov)]
    exact State.drew_cell_of_not_covers hcov

/-- R161 (log entry 9): the second draw finds lit exactly the covered cells that were unlit before the first. -/
theorem State.redrawn_hit_iff (s : State) (x y : Reg) (n : Fin 16) :
    (∃ r c, Covers (s.redrawn x y n) x y n r c ∧ (s.redrawn x y n).fb.cell r c = true) ↔
      ∃ r c, Covers s x y n r c ∧ s.fb.cell r c = false := by
  refine exists_congr fun r => exists_congr fun c => and_congr_right fun hcov => ?_
  have hflip : (s.redrawn x y n).fb.cell r c = !s.fb.cell r c := State.drew_cell_of_covers hcov
  rw [hflip, Bool.not_eq_true']

end Sys2Proof.Machine

open Sys2Proof Sys2Proof.Machine

/-- Settles O45: the load of the sprite's bytes is rolled back. -/
theorem drawOutOfRangeHalts : Obligations.DrawOutOfRangeHalts := fun _ _ _ _ hi _ h => exec_drw_of_beyond hi h

/-- Settles O46: the cells a draw unlights are the lit ones its sprite covers. -/
theorem collisionIsSetToUnset : Obligations.CollisionIsSetToUnset := by
  intro x y n s t h hkept hrun
  obtain ⟨-, rfl⟩ := eq_drew_of_running h (hkept.trans hrun)
  rw [State.drew_unlights_iff]
  exact ⟨State.drew_getV_regF_of_hit, State.drew_getV_regF_of_no_hit⟩

/-- Settles O47: the second draw covers the same cells, and finds lit the ones the first has lit. -/
theorem drawTwiceRestoresScreen : Obligations.DrawTwiceRestoresScreen := by
  intro x y n s t _ h hrun
  obtain ⟨hfit, rfl⟩ := eq_drew_of_running h hrun
  rw [← State.redrawn_hit_iff]
  exact ⟨(s.redrawn x y n).drew x y n, exec_drw_of_fits x y hfit, State.redrawn_drew_fb s x y n,
    State.drew_getV_regF_of_hit, State.drew_getV_regF_of_no_hit⟩
end

section
/-! PROOFS for 45_timers_keys.md: the skips on a key (R180, R181) and the wait for one (R183). -/

namespace Sys2Proof.Machine

/-! ### SKP Vx and SKNP Vx (R180, R181) -/

/-- A value that is a key's number names that key. -/
theorem State.keyOf_of_eq {s : State} {b : Byte} {k : Fin 16} (h : b.toNat = k.val) : s.keyOf b = some s.key[k] := by
  rw [State.keyOf, h, Vector.getElem?_eq_getElem k.isLt]
  rfl

/-- A value above 0xF names none (decision D17). -/
theorem State.keyOf_of_gt {s : State} {b : Byte} (h : b.toNat > 0xF) : s.keyOf b = none :=
  Vector.getElem?_eq_none h

theorem exec_skp_eq (x : Reg) (s : State) :
    exec (.skp x) s =
      .next ((s.setPc (if s.keyOf (s.getV x) = some true then s.pc + 2 else s.pc)).giveReport .advanced) := by
  simp only [exec, execSkp, State.skipIf_eq, beq_iff_eq]

theorem exec_sknp_eq (x : Reg) (s : State) :
    exec (.sknp x) s =
      .next ((s.setPc (if s.keyOf (s.getV x) = some false then s.pc + 2 else s.pc)).giveReport .advanced) := by
  simp only [exec, execSknp, State.skipIf_eq, beq_iff_eq]

/-! ### LD Vx, K (R183) -/

/-- R183: a key that is down, with every lower-numbered one up, is the one found. -/
theorem State.lowestKeyDown_of_lowest {s : State} {k : Fin 16} (hk : s.key[k] = true)
    (hlow : ∀ j : Fin 16, j < k → s.key[j] = false) : s.lowestKeyDown = some k.val := by
  cases hfound : s.lowestKeyDown with
  | none => exact absurd (State.lowestKeyDown_eq_none.mp hfound k) (by rw [hk]; decide)
  | some m =>
    obtain ⟨hm, hdown, hup⟩ := State.lowestKeyDown_eq_some hfound
    obtain hlt | heq | hgt := Nat.lt_trichotomy m k.val
    · exact absurd (hlow ⟨m, hm⟩ hlt) (by rw [Fin.getElem_fin, hdown]; decide)
    · rw [heq]
    · exact absurd (hup k.val hgt) (by rw [← Fin.getElem_fin, hk]; decide)

theorem exec_ldVxK_of_down (x : Reg) {s : State} {k : Nat} (h : s.lowestKeyDown = some k) :
    exec (.ldVxK x) s = .next (s.wroteV x (BitVec.ofNat 8 k)) := by
  simp only [exec, execLdVxK, h, State.advanced, State.wroteV]

theorem exec_ldVxK_of_up (x : Reg) {s : State} (h : s.lowestKeyDown = none) :
    exec (.ldVxK x) s = .next ((s.setPc (s.pc - 2)).giveReport .notAdvanced) := by
  simp only [exec, execLdVxK, h, State.notAdvanced]

/-- R28: a key's number fits in a register. -/
theorem keyNumber_toNat (k : Fin 16) : (BitVec.ofNat 8 k.val).toNat = k.val := by
  rw [BitVec.toNat_ofNat]
  omega

end Sys2Proof.Machine

open Sys2Proof Sys2Proof.Machine

/-- Settles O48: each skip is a write of PC by the key that Vx names, if it names one. -/
theorem keySkips : Obligations.KeySkips := by
  intro x s
  refine ⟨⟨_, exec_skp_eq x s, fun k hk => ?_, fun h => ?_, rfl, keeps_setPc {} s _ _⟩,
    ⟨_, exec_sknp_eq x s, fun k hk => ?_, fun h => ?_, rfl, keeps_setPc {} s _ _⟩⟩
  · simp [State.keyOf_of_eq hk]
  · simp [State.keyOf_of_gt h]
  · cases hkey : s.key[k] <;> simp [State.keyOf_of_eq hk, hkey]
  · simp [State.keyOf_of_gt h]

/-- Settles O49: by what the search for a key finds. -/
theorem waitForKey : Obligations.WaitForKey := by
  intro x s
  refine ⟨fun k hk hlow => ?_, fun hup => ?_⟩
  · refine ⟨_, exec_ldVxK_of_down x (State.lowestKeyDown_of_lowest hk hlow), ?_, rfl, rfl, keeps_wroteV x _ s⟩
    rw [State.wroteV_getV_self, keyNumber_toNat]
  · exact ⟨_, exec_ldVxK_of_up x (State.lowestKeyDown_eq_none.mpr hup), rfl, rfl, keeps_setPc {} s _ _⟩
end

section
/-! PROOFS for 60_exceptions.md and 70_reset_and_hazards.md: the ports beside Step, one at a time (R207, R210, R230,
R232). -/

namespace Sys2Proof.Machine

/-! ### Tick (R207) -/

/-- R207: one count toward zero, floored at 0. -/
theorem countDown_toNat (b : Byte) : (countDown b).toNat = b.toNat - 1 := by
  have hb : b.toNat < 256 := b.isLt
  unfold countDown
  split
  case isTrue hpos =>
    rw [BitVec.toNat_sub_of_le (by rw [BitVec.le_def]; exact hpos)]
    rfl
  case isFalse => omega

theorem State.tick_of_running {s : State} (h : s.status = .running) :
    s.tick = (s.setDt (countDown s.dt)).setSt (countDown s.st) := State.whileRunning_running _ h

theorem keeps_setDt_setSt (s : State) (b b' : Byte) :
    Keeps { delay := True, sound := True } s ((s.setDt b).setSt b') where
  regs _ _ := rfl
  bytes _ _ := rfl
  index _ := rfl
  stack _ := ⟨rfl, rfl⟩
  delay h := absurd trivial h
  sound h := absurd trivial h
  screen _ := rfl
  draw _ := ⟨rfl, rfl⟩
  keys := rfl
  status := rfl

/-! ### KeyDown and KeyUp (R210) -/

theorem State.keyDown_of_running {s : State} (h : s.status = .running) (k : Fin 16) :
    s.keyDown k = s.setKeys (s.key.set k true) := State.whileRunning_running _ h

theorem State.keyUp_of_running {s : State} (h : s.status = .running) (k : Fin 16) :
    s.keyUp k = s.setKeys (s.key.set k false) := State.whileRunning_running _ h

/-- One key of the latch is set, and every other is as it was. -/
theorem State.setKeys_set_key (s : State) (k j : Fin 16) (b : Bool) :
    (s.setKeys (s.key.set k b)).key[j] = if j = k then b else s.key[j] := by
  simp only [State.setKeys_key, Fin.getElem_fin, Vector.getElem_set, Fin.ext_iff, eq_comm]

/-- Setting the latch back gives the state back. -/
theorem State.setKeys_setKeys_self (s : State) (key : Vector Bool 16) : (s.setKeys key).setKeys s.key = s := rfl

/-! ### Load (R232) -/

/-- R232: where the image fits, it is written from PROGRAM_BASE on. -/
theorem State.load_of_fits {s : State} {image : List Byte} (hfirst : s.port.report = none)
    (h : image.length ≤ 0xE00) : s.load image = .next (s.setMem (s.mem.writeAll Config.programBase image)) := by
  have hfits : imageFits image = true := decide_eq_true h
  simp [State.load, hfirst, hfits]

theorem State.load_of_too_long {s : State} {image : List Byte} (hfirst : s.port.report = none)
    (h : image.length > 0xE00) : s.load image = .refused .imageTooLong := by
  have hfits : imageFits image = false := decide_eq_false (Nat.not_le_of_lt h)
  simp [State.load, hfirst, hfits]

/-- R232 (decision D22): a core that has reported has stepped. -/
theorem State.load_of_report {s : State} (h : s.port.report ≠ none) (image : List Byte) :
    s.load image = .refused .loadAfterStep := by
  have hstepped : s.port.report.isSome = true := Option.isSome_iff_ne_none.mpr h
  simp [State.load, hstepped]

/-- R231, R232: 0xE00 bytes from 0x200 on end where memory does. -/
theorem image_in_memory {image : List Byte} (h : image.length ≤ 0xE00) :
    Config.programBase + image.length ≤ Config.memSize := by
  change 0x200 + image.length ≤ 0x1000
  omega

/-- A frame is not about the report. -/
theorem Keeps.of_giveReport {c : Changes} {s t : State} {r : StepResult} (h : Keeps c s (t.giveReport r)) :
    Keeps c s t :=
  ⟨h.regs, h.bytes, h.index, h.stack, h.delay, h.sound, h.screen, h.draw, h.keys, h.status⟩

/-- What a write of memory bytes leaves unchanged. -/
theorem keeps_writeAll {s : State} {base : Nat} {bytes : List Byte} (hwf : s.mem.wf = true)
    (h : base + bytes.length ≤ Config.memSize) :
    Keeps { bytes := fun a => base ≤ a ∧ a < base + bytes.length } s (s.setMem (s.mem.writeAll base bytes)) :=
  (keeps_stored hwf h).of_giveReport

end Sys2Proof.Machine

open Sys2Proof Sys2Proof.Machine

/-- Settles O51: a Running core's tick is one write of each timer. -/
theorem tickCountsDown : Obligations.TickCountsDown := by
  refine fun s => ⟨fun hrun => ?_, fun f hhalt => State.whileRunning_halted _ hhalt⟩
  rw [State.tick_of_running hrun]
  exact ⟨countDown_toNat s.dt, countDown_toNat s.st, rfl, rfl, keeps_setDt_setSt s _ _⟩

/-- Settles O52: a Running core's key port is one write of the latch. -/
theorem keyPortsSetLatch : Obligations.KeyPortsSetLatch := by
  refine fun k s => ⟨fun hrun => ?_, fun f hhalt =>
    ⟨State.whileRunning_halted _ hhalt, State.whileRunning_halted _ hhalt⟩⟩
  rw [State.keyDown_of_running hrun, State.keyUp_of_running hrun]
  exact ⟨fun j => State.setKeys_set_key s k j true, fun j => State.setKeys_set_key s k j false,
    State.setKeys_setKeys_self s _, State.setKeys_setKeys_self s _⟩

/-- Settles O54: the image is written from PROGRAM_BASE on, or the Load is refused. -/
theorem loadCopiesImage : Obligations.LoadCopiesImage := by
  refine fun image s hwf => ⟨fun hfirst hlen => ?_, State.load_of_too_long, fun h => State.load_of_report h image⟩
  have hfit := image_in_memory hlen
  exact ⟨_, State.load_of_fits hfirst hlen, fun _ hk => State.stored_mem_read_add hwf hfit hk, rfl, rfl,
    keeps_writeAll hwf hfit⟩

/-- Settles O55: by the definition of the Reset port. -/
theorem resetPortRestores : Obligations.ResetPortRestores := fun _ => ⟨rfl, rfl⟩
end

section
/-! PROOFS for 60_exceptions.md section 1 and 40_execution_cycle.md section 3: what an instruction can do, said once. It
raises its fatal error, which its operands, SP and I decide (R201, R204), or completes and writes its own elements of
the state alone. The writers of each element (10_state.md) follow. -/

namespace Sys2Proof.Machine

/-! ### The fatal error of an instruction -/

/-- R42, R43: the fatal error of an access of `n` bytes from I on. -/
def dataFault (n : Nat) (s : State) : Option FatalKind :=
  if rangeExists s.dataBase n then none else some .dataOutOfRange

/-- R201, R204: the fatal error of an instruction. -/
def faultOf (i : Instr) (s : State) : Option FatalKind :=
  match i with
  | .call _ => if s.sp.val = 16 then some .stackOverflow else none
  | .ret => if s.sp.val = 0 then some .stackUnderflow else none
  | .drw _ _ n => dataFault n.val s
  | .ldB _ => dataFault 3 s
  | .storeRegs x | .loadRegs x => dataFault (x.val + 1) s
  | _ => none

/-- R201: `bad_addr`, of an access from `base` on. -/
def FatalKind.badAddr (base : Nat) : FatalKind → Option Nat
  | .dataOutOfRange => some (firstBadAddr base)
  | .stackOverflow | .stackUnderflow | .fetchOutOfRange => none

/-- R201: the record of an instruction's fatal error. -/
def faultRecord (kind : FatalKind) (i : Instr) (s : State) : FaultRecord :=
  ⟨kind, s.pc - 2, some (encode i), kind.badAddr s.dataBase⟩

theorem dataFault_eq_none {n : Nat} {s : State} : dataFault n s = none ↔ n = 0 ∨ s.i.toNat + n ≤ 0x1000 := by
  have hrange : rangeExists s.dataBase n = true ↔ n = 0 ∨ s.i.toNat + n ≤ 0x1000 := rangeExists_iff _ _
  rw [← hrange, dataFault]
  split <;> simp_all

theorem dataFault_eq_some {n : Nat} {s : State} {k : FatalKind} (h : dataFault n s = some k) :
    k = .dataOutOfRange ∧ rangeExists s.dataBase n = false := by
  unfold dataFault at h
  split at h
  case isTrue => cases h
  case isFalse hr =>
    cases h
    exact ⟨rfl, Bool.eq_false_iff.mpr hr⟩

theorem State.storeAll_of_dataFault {i : Instr} {bytes : List Byte} {s : State} {k : FatalKind}
    (h : dataFault bytes.length s = some k) :
    s.storeAll i s.dataBase bytes = .next (s.enterHalted (faultRecord k i s)) := by
  obtain ⟨rfl, hr⟩ := dataFault_eq_some h
  rw [State.storeAll, hr]
  rfl

theorem State.loadAll_of_dataFault {i : Instr} {n : Nat} {use : List Byte → State → State} {s : State} {k : FatalKind}
    (h : dataFault n s = some k) : s.loadAll i s.dataBase n use = .next (s.enterHalted (faultRecord k i s)) := by
  obtain ⟨rfl, hr⟩ := dataFault_eq_some h
  rw [State.loadAll, hr]
  rfl

/-- R81, R202: an instruction with a fatal error enters Halted with its record, and does nothing else. -/
theorem exec_of_fault {i : Instr} {s : State} {k : FatalKind} (h : faultOf i s = some k) :
    exec i s = .next (s.enterHalted (faultRecord k i s)) := by
  cases i with
  | call nnn =>
    obtain ⟨hfull, hk⟩ := Option.ite_none_right_eq_some.mp h
    cases hk
    exact exec_call_of_full nnn hfull
  | ret =>
    obtain ⟨hempty, hk⟩ := Option.ite_none_right_eq_some.mp h
    cases hk
    exact exec_ret_of_empty hempty
  | drw x y n => exact State.loadAll_of_dataFault h
  | ldB x => exact State.storeAll_of_dataFault h
  | storeRegs x => exact State.storeAll_of_dataFault (by rw [State.length_regsThrough]; exact h)
  | loadRegs x => exact State.loadAll_of_dataFault h
  | _ => cases h

/-! ### An instruction that completes -/

theorem exec_call_of_no_fault {nnn : Addr12} {s : State} (h : faultOf (.call nnn) s = none) :
    ∃ hfree, exec (.call nnn) s = .next (s.called nnn hfree) := by
  have hfull : ¬ s.sp.val = 16 := fun hsp => by rw [faultOf, if_pos hsp] at h; cases h
  have hfree : s.sp.val < 16 := by omega
  exact ⟨hfree, exec_call_of_lt nnn hfree⟩

theorem exec_ret_of_no_fault {s : State} (h : faultOf .ret s = none) :
    ∃ k : Fin 16, s.sp.val = k.val + 1 ∧ exec .ret s = .next (s.returned k) := by
  have hempty : ¬ s.sp.val = 0 := fun hsp => by rw [faultOf, if_pos hsp] at h; cases h
  have hlive : s.sp.val = (⟨s.sp.val - 1, by omega⟩ : Fin 16).val + 1 := by
    change s.sp.val = s.sp.val - 1 + 1
    omega
  exact ⟨_, hlive, exec_ret_of_live hlive⟩

theorem exec_drw_of_no_fault {x y : Reg} {n : Fin 16} {s : State} (h : faultOf (.drw x y n) s = none) :
    exec (.drw x y n) s = .next (s.drew x y n) := by
  have hfit : n.val = 0 ∨ s.i.toNat + n.val ≤ 0x1000 := dataFault_eq_none.mp h
  exact exec_drw_of_fits x y (by omega)

theorem exec_ldB_of_no_fault {x : Reg} {s : State} (h : faultOf (.ldB x) s = none) :
    exec (.ldB x) s = .next (s.stored s.dataBase (bcdDigits (s.getV x))) := by
  have hfit : 3 = 0 ∨ s.i.toNat + 3 ≤ 0x1000 := dataFault_eq_none.mp h
  exact State.storeAll_of_fits (.ldB x) s (hfit.resolve_left (by decide))

theorem exec_storeRegs_of_no_fault {x : Reg} {s : State} (h : faultOf (.storeRegs x) s = none) :
    exec (.storeRegs x) s = .next (s.dumped x) := by
  have hfit : x.val + 1 = 0 ∨ s.i.toNat + (x.val + 1) ≤ 0x1000 := dataFault_eq_none.mp h
  exact exec_storeRegs_of_fits (by omega)

theorem exec_loadRegs_of_no_fault {x : Reg} {s : State} (h : faultOf (.loadRegs x) s = none) :
    exec (.loadRegs x) s = .next (s.loaded x) := by
  have hfit : x.val + 1 = 0 ∨ s.i.toNat + (x.val + 1) ≤ 0x1000 := dataFault_eq_none.mp h
  exact exec_loadRegs_of_fits (by omega)

/-- The state, but for its report, that an instruction which completes can leave: each writes its own elements. -/
inductive Leaves (s : State) : Instr → State → Prop
  | regs {i : Instr} {v : Vector Byte 16} (hv : ∀ r, ¬ MayWrite i r → v[r] = s.getV r) : Leaves s i (s.withV v)
  | rnd (x : Reg) (nn b : Byte) (n : Nat) : Leaves s (.rnd x nn) ((s.setV x b).setSupply none n)
  | pc (i : Instr) (w : Word) : Leaves s i (s.setPc w)
  | ret (n : Fin 17) (w : Word) : Leaves s .ret ((s.setStack s.stack n).setPc w)
  | call (nnn : Addr12) (k : Fin 16) (n : Fin 17) (w : Word) :
    Leaves s (.call nnn) ((s.setStack (s.stack.set k s.pc) n).setPc w)
  | index {i : Instr} {w : Word} (hi : (∃ nnn, i = .ldI nnn) ∨ ∃ x, i = .addI x ∨ i = .ldF x) (hw : w.toNat < 0x1000) :
    Leaves s i (s.setI w)
  | delay (x : Reg) (b : Byte) : Leaves s (.ldDtVx x) (s.setDt b)
  | sound (x : Reg) (b : Byte) : Leaves s (.ldStVx x) (s.setSt b)
  | bytes {i : Instr} (hi : ∃ x, i = .ldB x ∨ i = .storeRegs x) (base : Nat) (bytes : List Byte) :
    Leaves s i (s.setMem (s.mem.writeAll base bytes))
  | cls (fb : Framebuffer) : Leaves s .cls (s.setFb fb)
  | drw (x y : Reg) (n : Fin 16) (fb : Framebuffer) (b : Byte) : Leaves s (.drw x y n) ((s.setFb fb).setV regF b)

/-- R82: `t` is what the completed instruction leaves, with Advanced or NotAdvanced reported. -/
def Completes (i : Instr) (s t : State) : Prop :=
  ∃ u r, t = u.giveReport r ∧ (r = .advanced ∨ r = .notAdvanced) ∧ Leaves s i u

theorem Leaves.completes {i : Instr} {s u : State} (h : Leaves s i u) : Completes i s (u.giveReport .advanced) :=
  ⟨u, .advanced, rfl, .inl rfl, h⟩

/-- An instruction that writes Vx alone, and may. -/
theorem completes_wroteV {i : Instr} {x : Reg} (h : MayWrite i x) (b : Byte) (s : State) :
    Completes i s (s.wroteV x b) := by
  have hv : ∀ r, ¬ MayWrite i r → (s.setV x b).getV r = s.getV r := fun r hr => by
    rw [State.setV_getV, if_neg]
    rintro rfl
    exact hr h
  exact (Leaves.regs (v := (s.setV x b).v) hv).completes

/-- The skips and the jumps. -/
theorem completes_setPc (i : Instr) (s : State) (w : Word) : Completes i s ((s.setPc w).giveReport .advanced) :=
  (Leaves.pc i w).completes

/-- The sum and the differences. -/
theorem completes_resultThenFlag {i : Instr} {x : Reg} (h : ∀ r, r = x ∨ r = regF → MayWrite i r) (result flag : Byte)
    (s : State) : Completes i s ((s.resultThenFlag x result flag).giveReport .advanced) :=
  (Leaves.regs (v := (s.resultThenFlag x result flag).v)
    fun r hr => State.resultThenFlag_getV_of_ne result flag s (mt (h r) hr)).completes

/-- The shifts. -/
theorem completes_flagThenResult {i : Instr} {x : Reg} (h : ∀ r, r = x ∨ r = regF → MayWrite i r) (flag result : Byte)
    (s : State) : Completes i s ((s.flagThenResult x flag result).giveReport .advanced) :=
  (Leaves.regs (v := (s.flagThenResult x flag result).v)
    fun r hr => State.flagThenResult_getV_of_ne flag result s (mt (h r) hr)).completes

theorem completes_ldVxK (x : Reg) (s : State) : ∃ t, exec (.ldVxK x) s = .next t ∧ Completes (.ldVxK x) s t := by
  cases hkey : s.lowestKeyDown with
  | some k => exact ⟨_, exec_ldVxK_of_down x hkey, completes_wroteV (i := .ldVxK x) rfl _ s⟩
  | none => exact ⟨_, exec_ldVxK_of_up x hkey, _, .notAdvanced, rfl, .inr rfl, .pc _ _⟩

/-- R23: what LD I, ADD I and LD F leave in I. -/
theorem completes_setI {i : Instr} {s : State} {w : Word}
    (hi : (∃ nnn, i = .ldI nnn) ∨ ∃ x, i = .addI x ∨ i = .ldF x) (hw : w.toNat < 0x1000) :
    Completes i s ((s.setI w).giveReport .advanced) := (Leaves.index hi hw).completes

theorem glyphAddress_font_lt (vx : Byte) : (glyphAddress font vx).toNat < 0x1000 :=
  Nat.lt_of_le_of_lt (glyphAddress_le font_legal vx) (by decide)

theorem indexSum_lt (i0 : Word) (vx : Byte) : (indexSum i0 vx).toNat < 0x1000 := by
  rw [indexSum_toNat]
  omega

theorem zext16_lt (nnn : Addr12) : (zext16 nnn).toNat < 0x1000 := by
  rw [zext16_toNat]
  exact nnn.isLt

/-- R82: an instruction without a fatal error completes. -/
theorem exec_of_no_fault {i : Instr} {s : State} (h : faultOf i s = none) :
    ∃ t, exec i s = .next t ∧ Completes i s t := by
  cases i with
  | cls => exact ⟨_, exec_cls_eq s, (Leaves.cls _).completes⟩
  | ret =>
    obtain ⟨k, -, hret⟩ := exec_ret_of_no_fault h
    exact ⟨_, hret, (Leaves.ret k.castSucc (s.slot k)).completes⟩
  | call nnn =>
    obtain ⟨hfree, hcall⟩ := exec_call_of_no_fault h
    exact ⟨_, hcall, (Leaves.call nnn ⟨s.sp.val, hfree⟩ _ _).completes⟩
  | jp nnn => exact ⟨_, exec_jp_eq nnn s, completes_setPc _ s _⟩
  | jpV0 nnn => exact ⟨_, exec_jpV0_eq nnn s, completes_setPc _ s _⟩
  | seImm x nn => exact ⟨_, exec_seImm_eq x nn s, completes_setPc _ s _⟩
  | sneImm x nn => exact ⟨_, exec_sneImm_eq x nn s, completes_setPc _ s _⟩
  | seReg x y => exact ⟨_, exec_seReg_eq x y s, completes_setPc _ s _⟩
  | sneReg x y => exact ⟨_, exec_sneReg_eq x y s, completes_setPc _ s _⟩
  | skp x => exact ⟨_, exec_skp_eq x s, completes_setPc _ s _⟩
  | sknp x => exact ⟨_, exec_sknp_eq x s, completes_setPc _ s _⟩
  | ldImm | addImm | ldReg | orReg | andReg | xorReg | ldVxDt =>
    refine ⟨_, rfl, completes_wroteV ?_ _ s⟩
    exact rfl
  | addReg | subReg | subnReg =>
    refine ⟨_, rfl, completes_resultThenFlag ?_ _ _ s⟩
    exact fun _ hr => hr
  | shr | shl =>
    refine ⟨_, rfl, completes_flagThenResult ?_ _ _ s⟩
    exact fun _ hr => hr
  | rnd x nn => exact ⟨_, exec_rnd_eq x nn s, (Leaves.rnd x nn _ _).completes⟩
  | ldI nnn => exact ⟨_, exec_ldI_eq nnn s, completes_setI (.inl ⟨nnn, rfl⟩) (zext16_lt nnn)⟩
  | addI x => exact ⟨_, exec_addI_eq x s, completes_setI (.inr ⟨x, .inl rfl⟩) (indexSum_lt _ _)⟩
  | ldF x => exact ⟨_, exec_ldF_eq x s, completes_setI (.inr ⟨x, .inr rfl⟩) (glyphAddress_font_lt _)⟩
  | ldVxK x => exact completes_ldVxK x s
  | ldDtVx x => exact ⟨_, exec_ldDtVx_eq x s, (Leaves.delay x _).completes⟩
  | ldStVx x => exact ⟨_, exec_ldStVx_eq x s, (Leaves.sound x _).completes⟩
  | ldB x => exact ⟨_, exec_ldB_of_no_fault h, (Leaves.bytes ⟨x, .inl rfl⟩ _ _).completes⟩
  | storeRegs x => exact ⟨_, exec_storeRegs_of_no_fault h, (Leaves.bytes ⟨x, .inr rfl⟩ _ _).completes⟩
  | loadRegs x =>
    exact ⟨_, exec_loadRegs_of_no_fault h, (Leaves.regs (i := .loadRegs x) (v := (s.loaded x).v)
      fun r hr => (State.loaded_getV x s r).trans (if_neg hr)).completes⟩
  | drw x y n => exact ⟨_, exec_drw_of_no_fault h, (Leaves.drw x y n _ _).completes⟩

/-- R81, R82: every instruction has a next state, by its fatal error or by completing. -/
theorem exec_cases {i : Instr} {s t : State} (h : exec i s = .next t) :
    (∃ k, faultOf i s = some k ∧ t = s.enterHalted (faultRecord k i s)) ∨ Completes i s t := by
  cases hf : faultOf i s with
  | some k =>
    rw [exec_of_fault hf] at h
    cases h
    exact .inl ⟨k, rfl, rfl⟩
  | none =>
    obtain ⟨u, hu, hcompl⟩ := exec_of_no_fault hf
    cases hu.symm.trans h
    exact .inr hcompl

theorem exec_total (i : Instr) (s : State) : ∃ t, exec i s = .next t := by
  cases hf : faultOf i s with
  | some k => exact ⟨_, exec_of_fault hf⟩
  | none =>
    obtain ⟨t, ht, -⟩ := exec_of_no_fault hf
    exact ⟨t, ht⟩

/-! ### The writers of each element -/

section
variable {i : Instr} {s u : State}

/-- R22. -/
theorem Leaves.getV (h : Leaves s i u) {r : Reg} (hr : ¬ MayWrite i r) : u.getV r = s.getV r := by
  cases h with
  | regs hv => exact hv r hr
  | rnd x nn b n =>
    rw [State.setSupply_getV, State.setV_getV, if_neg]
    exact hr
  | drw x y n fb b =>
    rw [State.setV_getV, if_neg]
    · rfl
    · exact hr
  | _ => rfl

theorem Leaves.key (h : Leaves s i u) : u.key = s.key := by
  cases h <;> rfl

theorem Leaves.status (h : Leaves s i u) : u.status = s.status := by
  cases h <;> rfl

theorem Leaves.writes_fb (h : Leaves s i u) (hne : u.fb ≠ s.fb) : i = .cls ∨ ∃ x y n, i = .drw x y n := by
  cases h with
  | cls => exact .inl rfl
  | drw x y n => exact .inr ⟨x, y, n, rfl⟩
  | _ => exact absurd rfl hne

theorem Leaves.writes_stack (h : Leaves s i u) (hne : u.stack ≠ s.stack ∨ u.sp ≠ s.sp) :
    i = .ret ∨ ∃ nnn, i = .call nnn := by
  cases h with
  | ret => exact .inl rfl
  | call nnn => exact .inr ⟨nnn, rfl⟩
  | _ => exact absurd hne (not_or.mpr ⟨fun h => h rfl, fun h => h rfl⟩)

theorem Leaves.writes_mem (h : Leaves s i u) (hne : u.mem ≠ s.mem) : ∃ x, i = .ldB x ∨ i = .storeRegs x := by
  cases h with
  | bytes hi => exact hi
  | _ => exact absurd rfl hne

theorem Leaves.writes_i (h : Leaves s i u) (hne : u.i ≠ s.i) :
    (∃ nnn, i = .ldI nnn) ∨ ∃ x, i = .addI x ∨ i = .ldF x := by
  cases h with
  | index hi => exact hi
  | _ => exact absurd rfl hne

theorem Leaves.writes_dt (h : Leaves s i u) (hne : u.dt ≠ s.dt) : ∃ x, i = .ldDtVx x := by
  cases h with
  | delay x => exact ⟨x, rfl⟩
  | _ => exact absurd rfl hne

theorem Leaves.writes_st (h : Leaves s i u) (hne : u.st ≠ s.st) : ∃ x, i = .ldStVx x := by
  cases h with
  | sound x => exact ⟨x, rfl⟩
  | _ => exact absurd rfl hne

/-- R201: the instructions that have a fatal error. -/
theorem faultOf_eq_some {k : FatalKind} (h : faultOf i s = some k) :
    i = .ret ∨ (∃ nnn, i = .call nnn) ∨ (∃ x y n, i = .drw x y n) ∨
      ∃ x, i = .ldB x ∨ i = .storeRegs x ∨ i = .loadRegs x := by
  cases i with
  | ret => exact .inl rfl
  | call nnn => exact .inr (.inl ⟨nnn, rfl⟩)
  | drw x y n => exact .inr (.inr (.inl ⟨x, y, n, rfl⟩))
  | ldB x => exact .inr (.inr (.inr ⟨x, .inl rfl⟩))
  | storeRegs x => exact .inr (.inr (.inr ⟨x, .inr (.inl rfl)⟩))
  | loadRegs x => exact .inr (.inr (.inr ⟨x, .inr (.inr rfl)⟩))
  | _ => cases h

end

end Sys2Proof.Machine

open Sys2Proof Sys2Proof.Machine

/-- Settles O12: a fatal error writes no register, and an instruction that completes writes those it may. -/
theorem onlyNamedRegistersChange : Obligations.OnlyNamedRegistersChange := by
  intro i s t h r hr
  obtain ⟨k, -, rfl⟩ | ⟨u, rep, rfl, -, hleaves⟩ := exec_cases h
  · rfl
  · exact hleaves.getV hr

/-- Settles O13: of these elements a fatal error changes Status alone, and a completed instruction its own alone. -/
theorem elementsHaveOnlyTheirWriters : Obligations.ElementsHaveOnlyTheirWriters := by
  intro i s t h
  obtain ⟨k, hk, rfl⟩ | ⟨u, rep, rfl, -, hleaves⟩ := exec_cases h
  · exact ⟨rfl, fun hne => absurd rfl hne, fun hne => absurd hne (not_or.mpr ⟨fun h => h rfl, fun h => h rfl⟩),
      fun hne => absurd rfl hne, fun hne => absurd rfl hne, fun hne => absurd rfl hne, fun hne => absurd rfl hne,
      fun _ => faultOf_eq_some hk⟩
  · exact ⟨hleaves.key, hleaves.writes_fb, hleaves.writes_stack, hleaves.writes_mem,
      hleaves.writes_i, hleaves.writes_dt, hleaves.writes_st,
      fun hne => absurd hleaves.status hne⟩
end

section
/-! PROOFS for 40_execution_cycle.md and 60_exceptions.md section 1: the cause of a fatal error read from the nibbles of
the fetched word is the error of the instruction it decodes to (R201), PC after a step without one is the table's (R85),
and what a step can do, said once (R80 to R82, R84). -/

namespace Sys2Proof.Machine

/-! ### The cause of a fatal error (R201) -/

/-- R201: the record of a step whose instruction has a fatal error, with I in its range. -/
def stepRecord (s : State) (kind : FatalKind) : FaultRecord :=
  ⟨kind, s.pc, some s.fetchWord, if kind = .dataOutOfRange then some 0x1000 else none⟩

/-- R42, R43: the last of `n` bytes from I on lies beyond 0xFFF. -/
theorem ite_eq_map_dataFault {s : State} {n : Nat} {c : Prop} [Decidable c]
    (h : c ↔ 0 < n ∧ 0xFFF < s.i.toNat + n - 1) :
    (if c then some (stepRecord s .dataOutOfRange) else none) = (dataFault n s).map (stepRecord s) := by
  have hrange : rangeExists s.dataBase n = true ↔ n = 0 ∨ s.i.toNat + n ≤ 0x1000 := rangeExists_iff _ _
  have hc : c ↔ ¬ rangeExists s.dataBase n = true := by
    rw [h, hrange]
    omega
  by_cases hr : rangeExists s.dataBase n = true <;> simp [dataFault, hc, hr]

/-- R201, R204: for a fetch in range, the cause is that of the instruction the word decodes to. -/
theorem fatalCause_of_decode_ok {s : State} {i : Instr} (hpc : s.pc.toNat + 1 ≤ 0xFFF)
    (hw : decode s.fetchWord = .ok i) : fatalCause s = (faultOf i s).map (stepRecord s) := by
  have hfetch : ¬ 0xFFF ≤ s.pc.toNat := by omega
  have hret : s.fetchWord = 0x00EE ↔ i = .ret :=
    ⟨fun h => by rw [h] at hw; cases hw; rfl, fun h => by rw [← encode_of_decode hw, h]; rfl⟩
  have hop : nibbleAt s.fetchWord 3 = nibbleAt (encode i) 3 := by rw [encode_of_decode hw]
  have hx : nibbleAt s.fetchWord 2 = nibbleAt (encode i) 2 := by rw [encode_of_decode hw]
  have hn : nibbleAt s.fetchWord 0 = nibbleAt (encode i) 0 := by rw [encode_of_decode hw]
  have hnn : s.fetchWord.toNat % 256 = (encode i).toNat % 256 := by rw [encode_of_decode hw]
  simp only [fatalCause, hfetch, if_false, hret, hop, hx, hn, hnn, nibbleAt_three, nibbleAt_two, nibbleAt_zero,
    toNat_mod_256]
  cases i with
  | cls => rfl
  | ret =>
    have hzero : (fieldOp (encode .ret)).toNat = 0 := rfl
    simp [hzero, faultOf, stepRecord]
  | call => simp [encode, fieldOp_packNNN, faultOf, stepRecord]
  | drw x y n =>
    have hdata := ite_eq_map_dataFault (s := s) (n := n.val) Iff.rfl
    rw [faultOf, ← hdata]
    simp [encode, fieldOp_packXYN, fieldN_packXYN, stepRecord]
  | ldB x =>
    have hdata := ite_eq_map_dataFault (s := s) (n := 3) (c := 0xFFF < s.i.toNat + 2) (by omega)
    rw [faultOf, ← hdata]
    simp [encode, fieldOp_packXNN, fieldNN_packXNN, stepRecord]
  | storeRegs x | loadRegs x =>
    have hdata := ite_eq_map_dataFault (s := s) (n := x.val + 1) (c := 0xFFF < s.i.toNat + x.val) (by omega)
    rw [faultOf, ← hdata]
    simp [encode, fieldOp_packXNN, fieldX_packXNN, fieldNN_packXNN, stepRecord]
  | jp | ldI | jpV0 => simp [encode, fieldOp_packNNN, faultOf]
  | seImm | sneImm | ldImm | addImm | rnd => simp [encode, fieldOp_packXNN, faultOf]
  | seReg | ldReg | orReg | andReg | xorReg | addReg | subReg | shr | subnReg | shl | sneReg =>
    simp [encode, fieldOp_packXYN, faultOf]
  | skp | sknp | ldVxDt | ldVxK | ldDtVx | ldStVx | addI | ldF =>
    simp [encode, fieldOp_packXNN, fieldNN_packXNN, faultOf]

/-- R84, R201: a word that decodes to no instruction causes no fatal error. -/
theorem fatalCause_of_decode_error {s : State} {u : Unknown} (hpc : s.pc.toNat + 1 ≤ 0xFFF)
    (hw : decode s.fetchWord = .error u) : fatalCause s = none := by
  have hfetch : ¬ 0xFFF ≤ s.pc.toNat := by omega
  have hsel : ¬ selects s.fetchWord = true := by
    rw [← decode_isOk, hw]
    exact Bool.false_ne_true
  have hcall : nibbleAt s.fetchWord 3 ≠ 0x2 := fun h => hsel (by simp [selects, h])
  have hret : s.fetchWord ≠ 0x00EE := fun h => hsel (by rw [h]; rfl)
  have hdrw : nibbleAt s.fetchWord 3 ≠ 0xD := fun h => hsel (by simp [selects, h])
  have hmisc : nibbleAt s.fetchWord 3 = 0xF → s.fetchWord.toNat % 256 ∉ miscOps :=
    fun h hmem => hsel (by simpa [selects, h] using hmem)
  have hbcd : ¬ (nibbleAt s.fetchWord 3 = 0xF ∧ s.fetchWord.toNat % 256 = 0x33 ∧ 0xFFF < s.i.toNat + 2) :=
    fun ⟨hop, hnn, _⟩ => hmisc hop (by rw [hnn]; decide)
  have hregs : ¬ (nibbleAt s.fetchWord 3 = 0xF ∧ (s.fetchWord.toNat % 256 = 0x55 ∨ s.fetchWord.toNat % 256 = 0x65) ∧
      0xFFF < s.i.toNat + nibbleAt s.fetchWord 2) := by
    rintro ⟨hop, hnn | hnn, -⟩
    all_goals exact hmisc hop (by rw [hnn]; decide)
  simp only [fatalCause, hfetch, hcall, hret, hdrw, hbcd, hregs, false_and, or_false, if_false]

/-- R44, R201: the cause of a fetch that reaches beyond memory. -/
theorem fatalCause_of_fetch {s : State} (h : 0xFFF ≤ s.pc.toNat) :
    fatalCause s = some ⟨.fetchOutOfRange, s.pc, none, some (max s.pc.toNat 0x1000)⟩ := by
  simp only [fatalCause, h, if_true]

/-- A core without a fatal cause has its whole next word in memory. -/
theorem fetch_fits_of_no_fatalCause {s : State} (h : fatalCause s = none) : s.pc.toNat + 1 ≤ 0xFFF := by
  by_contra hfetch
  rw [fatalCause_of_fetch (by omega)] at h
  cases h

/-- R201: the record is proper, and of the instruction at PC. -/
theorem fatalCause_proper {s : State} {f : FaultRecord} (h : fatalCause s = some f) :
    f.Proper ∧ f.instrAddr = s.pc := by
  dsimp only [fatalCause] at h
  split at h
  case isTrue hpc => cases h; exact ⟨⟨rfl, hpc, rfl⟩, rfl⟩
  case isFalse =>
    split at h
    case isTrue => cases h; exact ⟨⟨rfl, rfl⟩, rfl⟩
    case isFalse =>
      split at h
      case isTrue => cases h; exact ⟨⟨rfl, rfl⟩, rfl⟩
      case isFalse =>
        split at h
        case isTrue => cases h; exact ⟨⟨rfl, rfl⟩, rfl⟩
        case isFalse => cases h

/-! ### PC after a step (R85) -/

/-- R180, R181: a register names a key whose state is `b`, as a search over the keys. -/
theorem State.keyOf_eq_some_iff (s : State) (v : Byte) (b : Bool) :
    s.keyOf v = some b ↔ ∃ k : Fin 16, v.toNat = k.val ∧ s.key[k] = b := by
  constructor
  · intro h
    obtain ⟨hlt, hb⟩ := Vector.getElem?_eq_some_iff.mp h
    exact ⟨⟨v.toNat, hlt⟩, rfl, hb⟩
  · rintro ⟨k, hv, hb⟩
    rw [State.keyOf_of_eq hv, hb]

/-- R183: some key is down exactly when the search finds one. -/
theorem State.exists_key_iff (s : State) : (∃ k : Fin 16, s.key[k] = true) ↔ s.lowestKeyDown ≠ none := by
  rw [Ne, State.lowestKeyDown_eq_none]
  simp

/-- R107: the sum that JP V0 leaves in PC, as a word. -/
theorem offsetTarget_eq (nnn : Addr12) (v : Byte) : offsetTarget nnn v = BitVec.ofNat 16 (nnn.toNat + v.toNat) := by
  rw [← offsetTarget_toNat, BitVec.ofNat_toNat, BitVec.setWidth_eq]

/-- R85: with a live slot, the topmost one is the table's. -/
theorem State.slot_eq_getD {s : State} {k : Fin 16} (h : s.sp.val = k.val + 1) :
    s.slot k = s.stack.toList.getD (s.sp.val - 1) 0 := by
  rw [h, Nat.add_sub_cancel, List.getD_eq_getElem _ _ (by simp)]
  exact (Vector.getElem_toList _).symm

/-- R183: with a key down the wait is over, and else PC is the instruction's own. -/
theorem exec_ldVxK_pc {s t : State} {x : Reg} (h : exec (.ldVxK x) s.advancePc = .next t) :
    t.pc = if ∃ k : Fin 16, s.key[k] = true then s.pc + 2 else s.pc := by
  cases hkey : s.lowestKeyDown with
  | some k =>
    cases (exec_ldVxK_of_down x (s := s.advancePc) hkey).symm.trans h
    rw [if_pos (s.exists_key_iff.mpr (by rw [hkey]; exact Option.some_ne_none k))]
    rfl
  | none =>
    cases (exec_ldVxK_of_up x (s := s.advancePc) hkey).symm.trans h
    rw [if_neg (mt s.exists_key_iff.mp (not_not_intro hkey))]
    exact sub_two_of_add_two s.pc

/-- R85, row by row: PC after an instruction that completes, where PC has been advanced. -/
theorem exec_pc {s t : State} {i : Instr} (hw : decode s.fetchWord = .ok i) (hf : faultOf i s.advancePc = none)
    (h : exec i s.advancePc = .next t) : t.pc = pcAfter s := by
  cases i with
  | jp nnn =>
    cases (exec_jp_eq nnn _).symm.trans h
    simp [pcAfter, hw, zext16]
  | call nnn =>
    obtain ⟨hfree, hcall⟩ := exec_call_of_no_fault hf
    cases hcall.symm.trans h
    simp [pcAfter, hw, zext16, State.called]
  | ret =>
    obtain ⟨k, hlive, hret⟩ := exec_ret_of_no_fault hf
    cases hret.symm.trans h
    simp only [pcAfter, hw]
    exact State.slot_eq_getD hlive
  | jpV0 nnn =>
    cases (exec_jpV0_eq nnn _).symm.trans h
    simp [pcAfter, hw, offsetTarget_eq]
  | seImm x nn =>
    cases (exec_seImm_eq x nn _).symm.trans h
    simp [pcAfter, hw, BitVec.add_assoc]
  | sneImm x nn =>
    cases (exec_sneImm_eq x nn _).symm.trans h
    simp [pcAfter, hw, BitVec.add_assoc]
  | seReg x y =>
    cases (exec_seReg_eq x y _).symm.trans h
    simp [pcAfter, hw, BitVec.add_assoc]
  | sneReg x y =>
    cases (exec_sneReg_eq x y _).symm.trans h
    simp [pcAfter, hw, BitVec.add_assoc]
  | skp x =>
    cases (exec_skp_eq x _).symm.trans h
    simp [pcAfter, hw, BitVec.add_assoc, State.keyOf_eq_some_iff]
  | sknp x =>
    cases (exec_sknp_eq x _).symm.trans h
    simp [pcAfter, hw, BitVec.add_assoc, State.keyOf_eq_some_iff]
  | ldVxK x =>
    simp only [pcAfter, hw]
    exact exec_ldVxK_pc h
  | drw x y n =>
    cases (exec_drw_of_no_fault hf).symm.trans h
    simp only [pcAfter, hw]
    rfl
  | ldB x =>
    cases (exec_ldB_of_no_fault hf).symm.trans h
    simp only [pcAfter, hw]
    rfl
  | storeRegs x =>
    cases (exec_storeRegs_of_no_fault hf).symm.trans h
    simp only [pcAfter, hw]
    rfl
  | loadRegs x =>
    cases (exec_loadRegs_of_no_fault hf).symm.trans h
    simp only [pcAfter, hw]
    rfl
  | _ =>
    cases h
    simp only [pcAfter, hw]
    rfl

theorem State.getD_stack_le {s : State} (hslots : ∀ k, (s.slot k).toNat ≤ 0x1000) :
    (s.stack.toList.getD (s.sp.val - 1) 0).toNat ≤ 0x1000 := by
  have hlt : s.sp.val - 1 < 16 := by omega
  rw [List.getD_eq_getElem _ _ (by simpa using hlt), Vector.getElem_toList]
  exact hslots ⟨s.sp.val - 1, hlt⟩

/-- R24: no row of the table gives more than 0x10FE. -/
theorem pcAfter_le {s : State} (hpc : s.pc.toNat + 1 ≤ 0xFFF) (hslots : ∀ k, (s.slot k).toNat ≤ 0x1000) :
    (pcAfter s).toNat ≤ 0x10FE := by
  have htwo : (s.pc + 2).toNat = s.pc.toNat + 2 := by bv_omega
  have hfour : (s.pc + 4).toNat = s.pc.toNat + 4 := by bv_omega
  have hskip (c : Bool) : (if c then s.pc + 4 else s.pc + 2).toNat ≤ 0x10FE := by
    cases c
    · exact htwo.trans_le (by omega)
    · exact hfour.trans_le (by omega)
  unfold pcAfter
  dsimp only
  split
  · rename_i nnn _
    exact (zext16_toNat nnn).trans_le (by omega)
  · rename_i nnn _
    exact (zext16_toNat nnn).trans_le (by omega)
  · exact (State.getD_stack_le hslots).trans (by decide)
  · rename_i nnn _
    rw [← offsetTarget_eq, offsetTarget_toNat]
    have := (s.getV 0).isLt
    omega
  · exact hskip _
  · exact hskip _
  · exact hskip _
  · exact hskip _
  · exact hskip _
  · exact hskip _
  · split
    · exact htwo.trans_le (by omega)
    · omega
  · exact htwo.trans_le (by omega)

/-! ### What a completed instruction keeps of the bounds (R23, R102) -/

section
variable {i : Instr} {s u : State}

theorem Leaves.mem_wf (h : Leaves s i u) (hwf : s.mem.wf = true) : u.mem.wf = true := by
  cases h with
  | bytes _ base bytes => exact Memory.wf_writeAll hwf base bytes
  | _ => exact hwf

theorem Leaves.index_lt (h : Leaves s i u) (hi : s.i.toNat < 0x1000) : u.i.toNat < 0x1000 := by
  cases h with
  | index _ hw => exact hw
  | _ => exact hi

/-- R102: the one address pushed is the advanced PC. -/
theorem Leaves.slot_le (h : Leaves s i u) (hpc : s.pc.toNat ≤ 0x1000) (hslots : ∀ k, (s.slot k).toNat ≤ 0x1000)
    (k : Fin 16) : (u.slot k).toNat ≤ 0x1000 := by
  cases h with
  | call nnn j n w =>
    simp only [State.slot, State.setPc_stack, State.setStack_stack, Fin.getElem_fin, Vector.getElem_set]
    split
    · exact hpc
    · exact hslots k
  | _ => exact hslots k

end

/-! ### One step, said once (R80 to R82, R84) -/

/-- What a step without a fatal error leaves. -/
structure Completed (s t : State) : Prop where
  status : t.status = .running
  report : t.port.report = some .advanced ∨ t.port.report = some .notAdvanced
  pc : t.pc = pcAfter s
  mem : s.mem.wf = true → t.mem.wf = true
  index : s.i.toNat < 0x1000 → t.i.toNat < 0x1000
  returns : (∀ k, (s.slot k).toNat ≤ 0x1000) → ∀ k, (t.slot k).toNat ≤ 0x1000

/-- R44: a fetch that reaches beyond memory halts. -/
theorem step_of_fetch_beyond {s : State} (hrun : s.status = .running) (h : 0xFFF ≤ s.pc.toNat) :
    step s = .next (HaltedWith s ⟨.fetchOutOfRange, s.pc, none, some (max s.pc.toNat 0x1000)⟩) := by
  simp only [step, hrun, fetchBadAddr_eq_some (Nat.lt_succ_of_le h), State.raiseFetchFatal_eq]
  rfl

/-- R84: the no-op of an unknown word. -/
theorem completed_of_decode_error {s : State} {u : Unknown} (hrun : s.status = .running)
    (hw : decode s.fetchWord = .error u) : Completed s (s.advancePc.giveReport .advanced) where
  status := hrun
  report := .inl rfl
  pc := by simp [pcAfter, hw]
  mem := id
  index := id
  returns := id

/-- R80: an instruction that completes, run with PC advanced. -/
theorem completed_of_decode_ok {s t : State} {i : Instr} (hrun : s.status = .running) (hpc : s.pc.toNat + 1 ≤ 0xFFF)
    (hw : decode s.fetchWord = .ok i) (hf : faultOf i s.advancePc = none) (ht : exec i s.advancePc = .next t)
    (hcompl : Completes i s.advancePc t) : Completed s t := by
  have htable := exec_pc hw hf ht
  obtain ⟨u, rep, rfl, hrep, hleaves⟩ := hcompl
  have hadv : s.advancePc.pc.toNat ≤ 0x1000 := by
    change (s.pc + 2).toNat ≤ 0x1000
    bv_omega
  exact {
    status := hleaves.status.trans hrun
    report := hrep.imp (congrArg some) (congrArg some)
    pc := htable
    mem := hleaves.mem_wf
    index := hleaves.index_lt
    returns := hleaves.slot_le hadv }

/-- R82: a step without a fatal cause completes. -/
theorem step_completes {s : State} (hrun : s.status = .running) (h : fatalCause s = none) :
    ∃ t, step s = .next t ∧ Completed s t := by
  have hpc := fetch_fits_of_no_fatalCause h
  cases hw : decode s.fetchWord with
  | error u => exact ⟨_, step_of_decode_error hrun hpc hw, completed_of_decode_error hrun hw⟩
  | ok i =>
    have hf : faultOf i s.advancePc = none := Option.map_eq_none_iff.mp ((fatalCause_of_decode_ok hpc hw).symm.trans h)
    obtain ⟨t, ht, hcompl⟩ := exec_of_no_fault hf
    exact ⟨t, (step_of_decode_ok hrun hpc hw).trans ht, completed_of_decode_ok hrun hpc hw hf ht hcompl⟩

/-- R201: with I in its range, the record an instruction raises is the step's. -/
theorem faultRecord_advancePc {s : State} {i : Instr} (hi : s.i.toNat < 0x1000) (hw : decode s.fetchWord = .ok i)
    (k : FatalKind) : faultRecord k i s.advancePc = stepRecord s k := by
  have hbad : k.badAddr s.dataBase = if k = .dataOutOfRange then some 0x1000 else none := by
    cases k with
    | dataOutOfRange => exact congrArg some (firstBadAddr_of_lt hi)
    | _ => rfl
  have haddr : s.advancePc.pc - 2 = s.pc := sub_two_of_add_two s.pc
  rw [faultRecord, stepRecord, encode_of_decode hw, haddr, ← hbad]
  rfl

/-- R81, R202: a step with a fatal cause leaves the pre-step state, Halted with its record. -/
theorem step_halts {s : State} {f : FaultRecord} (hrun : s.status = .running) (hi : s.i.toNat < 0x1000)
    (h : fatalCause s = some f) : step s = .next (HaltedWith s f) := by
  by_cases hfetch : 0xFFF ≤ s.pc.toNat
  · cases (fatalCause_of_fetch hfetch).symm.trans h
    exact step_of_fetch_beyond hrun hfetch
  · have hpc : s.pc.toNat + 1 ≤ 0xFFF := by omega
    cases hw : decode s.fetchWord with
    | error u => cases (fatalCause_of_decode_error hpc hw).symm.trans h
    | ok i =>
      obtain ⟨k, hk, rfl⟩ := Option.map_eq_some_iff.mp ((fatalCause_of_decode_ok hpc hw).symm.trans h)
      have hfault : faultOf i s.advancePc = some k := hk
      rw [step_of_decode_ok hrun hpc hw, exec_of_fault hfault, faultRecord_advancePc hi hw]
      rfl

end Sys2Proof.Machine

open Sys2Proof Sys2Proof.Machine

/-- Settles O3: the larger of PC and 0x1000 is 0x1000 for PC = 0xFFF, and PC above it. -/
theorem fetchBeyondMemoryHalts : Obligations.FetchBeyondMemoryHalts := by
  intro s hrun h
  have hbad : (if s.pc.toNat = 0xFFF then 0x1000 else s.pc.toNat) = max s.pc.toNat 0x1000 := by
    split <;> omega
  rw [hbad]
  exact step_of_fetch_beyond hrun h

/-- Settles O5: a step halts by its fatal cause, and completes without one. -/
theorem stepHaltsExactlyOnFatalCause : Obligations.StepHaltsExactlyOnFatalCause := by
  refine fun s hrun hi => ⟨fun f => step_halts hrun hi, fun hnone => ?_⟩
  obtain ⟨t, ht, hcompl⟩ := step_completes hrun hnone
  exact ⟨t, ht, hcompl.status, hcompl.report⟩

/-- Settles O9: what a completed step leaves in PC. -/
theorem pcAfterEveryStep : Obligations.PcAfterEveryStep := by
  intro s hrun hnone
  obtain ⟨t, ht, hcompl⟩ := step_completes hrun hnone
  exact ⟨t, ht, hcompl.pc⟩
end

section
/-! PROOFS of the invariant: every step keeps it (R23, R24, R201), and so does every schedule of port calls (R208). -/

namespace Sys2Proof.Machine

/-! ### One step -/

/-- R202: what fatal entry leaves has the invariant, with the record at PC. -/
theorem State.Inv.haltedWith {s : State} {f : FaultRecord} (hinv : s.Inv) (hproper : f.Proper)
    (haddr : f.instrAddr = s.pc) : (HaltedWith s f).Inv where
  mem := hinv.mem
  index := hinv.index
  pc := hinv.pc
  returns := hinv.returns
  halted g hg := by
    cases hg
    exact ⟨hproper, haddr, rfl⟩

/-- R23, R24: what a completed step leaves has the invariant. -/
theorem State.Inv.completed {s t : State} (hinv : s.Inv) (hpc : s.pc.toNat + 1 ≤ 0xFFF) (h : Completed s t) :
    t.Inv where
  mem := h.mem hinv.mem
  index := h.index hinv.index
  pc := by
    rw [h.pc]
    exact pcAfter_le hpc hinv.returns
  returns := h.returns hinv.returns
  halted f hf := by
    rw [h.status] at hf
    cases hf

/-- A Halted core is at rest; a Running one halts by its fatal cause, or completes its step. -/
theorem State.Inv.step {s : State} (hinv : s.Inv) : ∃ t, Machine.step s = .next t ∧ t.Inv := by
  cases hst : s.status with
  | halted f => exact ⟨s, step_of_atRest (hinv.atRest hst), hinv⟩
  | running =>
    cases hcause : fatalCause s with
    | some f =>
      obtain ⟨hproper, haddr⟩ := fatalCause_proper hcause
      exact ⟨_, step_halts hst hinv.index hcause, hinv.haltedWith hproper haddr⟩
    | none =>
      obtain ⟨t, ht, hcompl⟩ := step_completes hst hcause
      exact ⟨t, ht, hinv.completed (fetch_fits_of_no_fatalCause hcause) hcompl⟩

/-! ### One port call -/

/-- The invariant is not about the supply of draws. -/
theorem State.Inv.setSupply {s : State} (hinv : s.Inv) (r : Option Byte) (n : Nat) : (s.setSupply r n).Inv :=
  ⟨hinv.mem, hinv.index, hinv.pc, hinv.returns, hinv.halted⟩

/-- The invariant is not about the timers. -/
theorem State.Inv.setTimers {s : State} (hinv : s.Inv) (b b' : Byte) : ((s.setDt b).setSt b').Inv :=
  ⟨hinv.mem, hinv.index, hinv.pc, hinv.returns, hinv.halted⟩

/-- The invariant is not about the input latch. -/
theorem State.Inv.setKeys {s : State} (hinv : s.Inv) (key : Vector Bool 16) : (s.setKeys key).Inv :=
  ⟨hinv.mem, hinv.index, hinv.pc, hinv.returns, hinv.halted⟩

/-- Of memory the invariant says the canonical form, which writes keep. -/
theorem State.Inv.writeAll {s : State} (hinv : s.Inv) (base : Nat) (bytes : List Byte) :
    (s.setMem (s.mem.writeAll base bytes)).Inv :=
  ⟨Memory.wf_writeAll hinv.mem base bytes, hinv.index, hinv.pc, hinv.returns, hinv.halted⟩

theorem State.Inv.whileRunning {s : State} {call : State → State} (hinv : s.Inv) (hcall : (call s).Inv) :
    (s.whileRunning call).Inv := by
  cases hst : s.status with
  | running => rwa [State.whileRunning_running call hst]
  | halted f => rwa [State.whileRunning_halted call hst]

theorem State.Inv.stepWith {s : State} (hinv : s.Inv) (rand : Byte) : ∃ t, s.stepWith rand = .next t ∧ t.Inv := by
  obtain ⟨t, ht, htinv⟩ := (hinv.setSupply (some rand) s.port.draws).step
  exact ⟨_, State.stepWith_of_step_eq_next ht, htinv.setSupply _ _⟩

/-- R232: a Load is refused, or writes its image. -/
theorem State.Inv.load {s : State} (hinv : s.Inv) (image : List Byte) :
    (∃ t, s.load image = .next t ∧ t.Inv) ∨ ∃ r, s.load image = .refused r := by
  by_cases hfirst : s.port.report = none
  · by_cases hlen : image.length ≤ 0xE00
    · exact .inl ⟨_, State.load_of_fits hfirst hlen, hinv.writeAll _ _⟩
    · exact .inr ⟨_, State.load_of_too_long hfirst (Nat.lt_of_not_le hlen)⟩
  · exact .inr ⟨_, State.load_of_report hfirst image⟩

/-- R209: a port call leaves a state with the invariant, or is refused. -/
theorem State.Inv.serve {s : State} (hinv : s.Inv) (c : PortCall) :
    (∃ t, s.serve c = .next t ∧ t.Inv) ∨ ∃ r, s.serve c = .refused r := by
  cases c with
  | reset => exact .inl ⟨_, rfl, reset_inv.setSupply none s.port.draws⟩
  | load image => exact hinv.load image
  | step rand => exact .inl (hinv.stepWith rand)
  | tick => exact .inl ⟨_, rfl, hinv.whileRunning (hinv.setTimers _ _)⟩
  | keyDown k => exact .inl ⟨_, rfl, hinv.whileRunning (hinv.setKeys _)⟩
  | keyUp k => exact .inl ⟨_, rfl, hinv.whileRunning (hinv.setKeys _)⟩

/-! ### A schedule -/

/-- R208: by induction on the calls; a refused one changes nothing. -/
theorem State.Inv.runSchedule (cs : List PortCall) : ∀ {s : State}, s.Inv → (s.runSchedule cs).Inv := by
  induction cs with
  | nil => exact id
  | cons c cs ih =>
    intro s hinv
    obtain ⟨t, hnext, htinv⟩ | ⟨r, hrefused⟩ := hinv.serve c
    · rw [State.runSchedule_cons_of_next cs hnext]
      exact ih htinv
    · rw [State.runSchedule_cons_of_refused cs hrefused]
      exact ih hinv

end Sys2Proof.Machine

open Sys2Proof Sys2Proof.Machine

/-- Settles O7: by the step of a Halted core, the halting one and the completed one. -/
theorem stepKeepsInvariant : Obligations.StepKeepsInvariant := fun _ => State.Inv.step

/-- Settles O8: call by call. -/
theorem scheduleKeepsInvariant : Obligations.ScheduleKeepsInvariant := fun _ cs => State.Inv.runSchedule cs
end

section
/-! PROOFS for the draw (R86, R212): every instruction but RND does the same whatever the Step port holds, and keeps
what it holds, so a step whose word is not Cxnn does not read the byte it was given. -/

namespace Sys2Proof.Machine

theorem State.skipIf_setSupply {c : Bool} {s t : State} (h : s.skipIf c = .next t) (r : Option Byte) (n : Nat) :
    (s.setSupply r n).skipIf c = .next (t.setSupply r n) := by
  rw [State.skipIf_eq] at h ⊢
  cases h
  rfl

/-- R86: an instruction other than RND neither reads nor writes the supply of draws. -/
theorem exec_setSupply {i : Instr} {s t : State} (hi : ∀ x nn, i ≠ .rnd x nn) (h : exec i s = .next t)
    (r : Option Byte) (n : Nat) : exec i (s.setSupply r n) = .next (t.setSupply r n) := by
  cases hf : faultOf i s with
  | some k =>
    cases (exec_of_fault hf).symm.trans h
    exact exec_of_fault (s := s.setSupply r n) hf
  | none =>
    have hf' : faultOf i (s.setSupply r n) = none := hf
    cases i with
    | rnd x nn => exact absurd rfl (hi x nn)
    | ret =>
      obtain ⟨k, hlive, hret⟩ := exec_ret_of_no_fault hf
      cases hret.symm.trans h
      exact exec_ret_of_live (s := s.setSupply r n) hlive
    | call nnn =>
      obtain ⟨hfree, hcall⟩ := exec_call_of_no_fault hf
      cases hcall.symm.trans h
      exact exec_call_of_lt nnn (s := s.setSupply r n) hfree
    | drw x y n =>
      cases (exec_drw_of_no_fault hf).symm.trans h
      exact exec_drw_of_no_fault hf'
    | ldB x =>
      cases (exec_ldB_of_no_fault hf).symm.trans h
      exact exec_ldB_of_no_fault hf'
    | storeRegs x =>
      cases (exec_storeRegs_of_no_fault hf).symm.trans h
      exact exec_storeRegs_of_no_fault hf'
    | loadRegs x =>
      cases (exec_loadRegs_of_no_fault hf).symm.trans h
      exact exec_loadRegs_of_no_fault hf'
    | seImm | sneImm | seReg | sneReg | skp | sknp => exact State.skipIf_setSupply h r n
    | ldVxK x =>
      cases hkey : s.lowestKeyDown with
      | some k =>
        cases (exec_ldVxK_of_down x hkey).symm.trans h
        exact exec_ldVxK_of_down x (s := s.setSupply r n) hkey
      | none =>
        cases (exec_ldVxK_of_up x hkey).symm.trans h
        exact exec_ldVxK_of_up x (s := s.setSupply r n) hkey
    | _ =>
      cases h
      rfl

/-- A word whose top nibble is not 0xC is no RND. -/
theorem ne_rnd_of_decode {w : Word} {i : Instr} (hw : decode w = .ok i) (h : nibbleAt w 3 ≠ 0xC) (x : Reg) (nn : Byte) :
    i ≠ .rnd x nn := by
  rintro rfl
  rw [← encode_of_decode hw, nibbleAt_three, encode, fieldOp_packXNN] at h
  exact h rfl

/-- R86: the step of a word that is not Cxnn answers one state, whatever the Step port holds, but for what it holds. -/
theorem step_setSupply {s : State} (h : nibbleAt s.fetchWord 3 ≠ 0xC) :
    ∃ t : State, ∀ r n, step (s.setSupply r n) = .next (t.setSupply r n) := by
  cases hst : s.status with
  | halted f => exact ⟨s.giveReport (.fatal f), fun r n => by simp only [step, State.setSupply_status, hst]; rfl⟩
  | running =>
    by_cases hfetch : 0xFFF ≤ s.pc.toNat
    · exact ⟨HaltedWith s ⟨.fetchOutOfRange, s.pc, none, some (max s.pc.toNat 0x1000)⟩,
        fun r n => step_of_fetch_beyond (s := s.setSupply r n) hst hfetch⟩
    · have hpc : s.pc.toNat + 1 ≤ 0xFFF := by omega
      cases hw : decode s.fetchWord with
      | error u =>
        exact ⟨s.advancePc.giveReport .advanced, fun r n => step_of_decode_error (s := s.setSupply r n) hst hpc hw⟩
      | ok i =>
        obtain ⟨t, ht⟩ := exec_total i s.advancePc
        exact ⟨t, fun r n => (step_of_decode_ok (s := s.setSupply r n) hst hpc hw).trans
          (exec_setSupply (ne_rnd_of_decode hw h) ht r n)⟩

end Sys2Proof.Machine

open Sys2Proof Sys2Proof.Machine

/-- Settles O10: the step answers one state for both bytes, and neither is left over. -/
theorem onlyRndReadsTheDraw : Obligations.OnlyRndReadsTheDraw := by
  intro s r₁ r₂ h
  obtain ⟨t, ht⟩ := step_setSupply h
  rw [State.stepWith_of_step_eq_next (ht (some r₁) s.port.draws),
    State.stepWith_of_step_eq_next (ht (some r₂) s.port.draws)]
  rfl
end
